-- ==== Sys2Proof/Word.lean ====
section
/-! DEFINITION. The word types of the frame engine: `u8`, `u16`, `u32`, `u64` (00_scope.md R9) and the 24-bit dispatch
key (30_encoding.md R59). All arithmetic of the block is unsigned; a float field is carried as its raw bits (R9, R110). -/

namespace Sys2Proof

/-- `u8` (R9). Bit 7 is the most significant bit (R8). -/
abbrev Byte := BitVec 8

/-- `u16` (R9). -/
abbrev U16 := BitVec 16

/-- `u32` (R9), and the raw bits of an `f32`. -/
abbrev U32 := BitVec 32

/-- `u64` (R9): the raw bits of an `f64`. -/
abbrev U64 := BitVec 64

/-- The dispatch key `K` of a frame (R59): `K[15:0]` the message id, `K[22:16]` the ignored type bits, `K[23]` the
response flag. -/
abbrev Key := BitVec 24

end Sys2Proof
end

