-- ==== Sys2Proof/Config.lean ====
section
/-! DEFINITION. What is fixed for one frame engine: the static parameters of 00_scope.md R7, which the spec says a model
takes as arguments, and the free values of 42_decoder.md R107. The parameters' values in `State.reset` are in
`Sys2Proof/Machine/Params.lean`. -/

namespace Sys2Proof

/-- P_RESP_NAV (R7): the treatment of a response frame with id 241 or 244 (R104). -/
inductive RespNav where
  | unexpected
  | decode
  deriving DecidableEq, Repr

/-- The static parameters of R7 that the block uses. The three offsets have R7's own ranges (0..24, 0..23, 0..21), so
that a time field always lies inside the 25 header bytes. PAY_CAP is not a parameter here: R14, R21 and R31 fix it. -/
structure Params where
  /-- P_CRC_POLY: the CRC polynomial constant. -/
  crcPoly : U32
  /-- P_CRC_INIT: the initial value of the CRC register. -/
  crcInit : U32
  /-- P_CRC_XOROUT: the value XORed into the final CRC. -/
  crcXorOut : U32
  /-- P_HDR_LEN_BYTE: the value written to header offset 0 on transmit. -/
  hdrLenByte : Byte
  /-- P_HDR_PORT: the port byte written to header offset 4 on transmit. -/
  hdrPort : Byte
  /-- P_CMD_PORT: the port id at offset 0 of both command payloads. -/
  cmdPort : U32
  /-- P_OFF_TSTAT: the header offset of the time-status byte. -/
  offTstat : Fin 25
  /-- P_OFF_WEEK: the header offset of the GPS week. -/
  offWeek : Fin 24
  /-- P_OFF_MS: the header offset of the milliseconds of week. -/
  offMs : Fin 22
  /-- P_ACK_OK: the acknowledgment status meaning success. -/
  ackOk : U32
  /-- P_ACK_CRCERR: the acknowledgment status meaning checksum mismatch. -/
  ackCrcErr : U32
  /-- P_RESP_NAV. -/
  respNav : RespNav
  deriving DecidableEq, Repr

/-- R53: the three time fields lie within header offsets 7 to 24 and do not overlap. The block's rules do not depend on
it; it is what R53 asks of the parameters. -/
def Params.timeFieldsValid (p : Params) : Bool :=
  7 ≤ p.offTstat.val && 7 ≤ p.offWeek.val && 7 ≤ p.offMs.val &&
  (p.offTstat.val < p.offWeek.val || p.offWeek.val + 2 ≤ p.offTstat.val) &&
  (p.offTstat.val < p.offMs.val || p.offMs.val + 4 ≤ p.offTstat.val) &&
  (p.offWeek.val + 2 ≤ p.offMs.val || p.offMs.val + 4 ≤ p.offWeek.val)

/-- FREE VALUE (93_implementation_defined.md U14): the bits of the unspecified fields of NAV_SAMPLE and ACK, one value
for each draw number. A field narrower than 64 bits takes the low bits of its own draw. It has no body: no proof can
evaluate it (log entry 3). -/
opaque Config.freeField : Nat → U64

/-- FREE VALUE (U22): whether the transport accepts the host's write number n. Only the host side uses it, never the block
(log entry 17). -/
opaque Config.writeOk : Nat → Bool

end Sys2Proof
end

