-- ==== Sys2Proof/Syntax.lean ====
section
/-! DEFINITION. The instructions: one constructor for each of the 22 rows of spec/opcode_table.json. A `port-op` row is
one of the block's own operations (an input event, 30_encoding.md R63; RX_BYTE and RX_TIMEOUT have one row for each
phase or group of phases). A `frame-key` row is an inbound frame kind, selected by the dispatch key (R59, R60), and a
`frame-out` row an outbound one. -/

namespace Sys2Proof

/-- The parser's phase (10_state.md R17). -/
inductive Phase where
  /-- NoSync: no sync byte matched. -/
  | hunt0
  /-- Sync1: `AA` matched. -/
  | hunt1
  /-- Sync2: `AA 44` matched. -/
  | hunt2
  /-- FrameCandidate: collecting the 25 header bytes. -/
  | hdr
  /-- FrameCandidate: collecting the payload bytes. -/
  | pay
  /-- FrameCandidate: collecting the 4 checksum bytes. -/
  | cks
  deriving DecidableEq, Repr

/-- The instructions, one constructor for each row of the opcode table. -/
inductive Instr where
  /-- LOG_ACK (R100): id 1, response. `typeBits` are the ignored type bits 6:0, here and below. -/
  | logAck (typeBits : BitVec 7)
  /-- NAV_244 (R102): id 244, not a response. -/
  | nav244 (typeBits : BitVec 7)
  /-- NAV_241 (R102): id 241, not a response. -/
  | nav241 (typeBits : BitVec 7)
  /-- NAV_1_QUIRK (R103): id 1, not a response. -/
  | nav1Quirk (typeBits : BitVec 7)
  /-- RESP_244 (R104): id 244, response. -/
  | resp244 (typeBits : BitVec 7)
  /-- RESP_241 (R104): id 241, response. -/
  | resp241 (typeBits : BitVec 7)
  /-- UNEXPECTED (R105): every other id. -/
  | unexpected (msgId : U16) (resp : Bool) (typeBits : BitVec 7)
  /-- CMD_START_LOG (R58, R116): the outbound start-logging frame. `per` and `off` are `f32` bits. -/
  | cmdStartLog (lid : U16) (per off : U32)
  /-- CMD_STOP_LOG (R57, R115): the outbound stop-logging frame. -/
  | cmdStopLog (uid : U16)
  /-- RX_BYTE in HUNT0 (R79). -/
  | rxByteHunt0 (b : Byte)
  /-- RX_BYTE in HUNT1 (R80). -/
  | rxByteHunt1 (b : Byte)
  /-- RX_BYTE in HUNT2 (R81). -/
  | rxByteHunt2 (b : Byte)
  /-- RX_BYTE in HDR (R83, R84). -/
  | rxByteHdr (b : Byte)
  /-- RX_BYTE in PAY (R85). -/
  | rxBytePay (b : Byte)
  /-- RX_BYTE in CKS (R86 to R89). -/
  | rxByteCks (b : Byte)
  /-- RX_TIMEOUT in HUNT0, HUNT1 or HUNT2 (R82). -/
  | rxTimeoutHunt
  /-- RX_TIMEOUT in HDR, PAY or CKS (R90). -/
  | rxTimeoutCollect
  /-- CRC_COMPUTE(s) (R77). -/
  | crcCompute (bs : List Byte)
  /-- ENC_FRAME(id, s) (R114). -/
  | encFrame (id : U16) (bs : List Byte)
  /-- ENC_STOP_LOG(uid) (R115). -/
  | encStopLog (uid : U16)
  /-- ENC_START_LOG(lid, per, off) (R116). -/
  | encStartLog (lid : U16) (per off : U32)
  /-- RESET (R143). -/
  | reset
  deriving DecidableEq, Repr

/-- The table's `format` column: which of the block's three encodings a row belongs to. -/
inductive Format where
  | portOp
  | frameKey
  | frameOut
  deriving DecidableEq, Repr

/-- The format of an instruction's row. -/
def Instr.format : Instr → Format
  | .logAck _ | .nav244 _ | .nav241 _ | .nav1Quirk _ | .resp244 _ | .resp241 _ | .unexpected _ _ _ => .frameKey
  | .cmdStartLog _ _ _ | .cmdStopLog _ => .frameOut
  | .rxByteHunt0 _ | .rxByteHunt1 _ | .rxByteHunt2 _ | .rxByteHdr _ | .rxBytePay _ | .rxByteCks _
  | .rxTimeoutHunt | .rxTimeoutCollect | .crcCompute _ | .encFrame _ _ | .encStopLog _ | .encStartLog _ _ _
  | .reset => .portOp

/-- The phases in which an input event is this row (the table's `phase` field); every phase for the rows that have none. -/
def Instr.inPhase : Instr → Phase → Bool
  | .rxByteHunt0 _, ph => ph == .hunt0
  | .rxByteHunt1 _, ph => ph == .hunt1
  | .rxByteHunt2 _, ph => ph == .hunt2
  | .rxByteHdr _, ph => ph == .hdr
  | .rxBytePay _, ph => ph == .pay
  | .rxByteCks _, ph => ph == .cks
  | .rxTimeoutHunt, ph => ph == .hunt0 || ph == .hunt1 || ph == .hunt2
  | .rxTimeoutCollect, ph => ph == .hdr || ph == .pay || ph == .cks
  | .logAck _, _ | .nav244 _, _ | .nav241 _, _ | .nav1Quirk _, _ | .resp244 _, _ | .resp241 _, _
  | .unexpected _ _ _, _ | .cmdStartLog _ _ _, _ | .cmdStopLog _, _ | .crcCompute _, _ | .encFrame _ _, _
  | .encStopLog _, _ | .encStartLog _ _ _, _ | .reset, _ => true

end Sys2Proof
end

