-- ==== Sys2Proof/WellFormed.lean ====
section
/-! DEFINITION. Which instruction terms are instructions of the block: the operand bounds of 10_state.md R24 and the ids
that 30_encoding.md R61 leaves to the row UNEXPECTED. -/

namespace Sys2Proof

/-- R24: the byte sequence of CRC_COMPUTE and ENC_FRAME has at most 65535 bytes (its length field is a u16, R63). -/
def lengthOk (bs : List Byte) : Bool := bs.length ≤ 65535

/-- R61: a message id outside {1, 241, 244}. -/
def unexpectedId (id : U16) : Bool := id != 1#16 && id != 241#16 && id != 244#16

/-- A well-formed instruction. -/
def Instr.wf : Instr → Bool
  | .unexpected id _ _ => unexpectedId id
  | .crcCompute bs => lengthOk bs
  | .encFrame _ bs => lengthOk bs
  | .logAck _ | .nav244 _ | .nav241 _ | .nav1Quirk _ | .resp244 _ | .resp241 _ | .cmdStartLog _ _ _ | .cmdStopLog _
  | .rxByteHunt0 _ | .rxByteHunt1 _ | .rxByteHunt2 _ | .rxByteHdr _ | .rxBytePay _ | .rxByteCks _
  | .rxTimeoutHunt | .rxTimeoutCollect | .encStopLog _ | .encStartLog _ _ _ | .reset => true

end Sys2Proof
end

