-- ==== Sys2Proof/Decode.lean ====
section
/-! DEFINITION. The three encodings of 30_encoding.md and their decoders, total on any bytes and rejecting by name, then
the encoder. `portOp`: input events as op byte and operand bytes (R63). `frameKey`: the 24-bit dispatch key of an inbound
frame, by the match and mask table (R59, R60). `frameOut`: the header and payload of an outbound command (R47, R57, R58,
R60). The shared byte conversion `le_n` / `LE_n` (00_scope.md R10, 20_memory.md R34) stands first. -/

namespace Sys2Proof

/-! ## The shared conversion between bytes and numbers -/

/-- `le_n(s, 0)` with `n = len(s)` (R10): the little-endian unsigned number the bytes stand for. -/
def leNat : List Byte → Nat
  | [] => 0
  | b :: bs => b.toNat + 256 * leNat bs

/-- `LE_n(v)` (R10): the `n` low bytes of `v`, least significant first. -/
def leBytes : Nat → Nat → List Byte
  | 0, _ => []
  | n + 1, v => BitVec.ofNat 8 v :: leBytes n (v / 256)

/-- `le_n(s, o)` (R10). -/
def leAt (bs : List Byte) (o n : Nat) : Nat := leNat ((bs.drop o).take n)

/-- The first `n` bytes and the rest, if there are that many. -/
def takeBytes (n : Nat) (bs : List Byte) : Option (List Byte × List Byte) :=
  if n ≤ bs.length then some (bs.take n, bs.drop n) else none

/-! ## Why bytes are no instruction -/

/-- The reasons the port's bytes give no input event. -/
inductive PortReject where
  /-- No byte is there: no event is waiting at the port. -/
  | noEvent
  /-- R63: op bytes 0x07 to 0xFF are reserved. -/
  | reservedOp (op : Byte)
  /-- 93_implementation_defined.md U17: the bytes end in the middle of the operands of this op. -/
  | truncated (op : Byte)
  deriving DecidableEq, Repr

/-- The reasons a decoder gives no instruction. -/
inductive Reject where
  /-- The port's bytes give no input event. -/
  | port (r : PortReject)
  /-- A dispatch key has 3 bytes, an outbound frame 25 header bytes and its payload: some are missing. -/
  | shortFrame
  /-- The header and payload are not those of a start-logging or stop-logging command. -/
  | notCommand
  deriving DecidableEq, Repr

/-! ## Port operations (R63) -/

/-- The row of RX_BYTE(b) in a phase. -/
def rxByteInstr (ph : Phase) (b : Byte) : Instr :=
  match ph with
  | .hunt0 => .rxByteHunt0 b
  | .hunt1 => .rxByteHunt1 b
  | .hunt2 => .rxByteHunt2 b
  | .hdr => .rxByteHdr b
  | .pay => .rxBytePay b
  | .cks => .rxByteCks b

/-- The row of RX_TIMEOUT in a phase. -/
def rxTimeoutInstr (ph : Phase) : Instr :=
  match ph with
  | .hunt0 | .hunt1 | .hunt2 => .rxTimeoutHunt
  | .hdr | .pay | .cks => .rxTimeoutCollect

/-- A little-endian u16 operand. -/
def u16Of (b0 b1 : Byte) : U16 := BitVec.ofNat 16 (leNat [b0, b1])

/-- A little-endian u32 operand. -/
def u32Of (b0 b1 b2 b3 : Byte) : U32 := BitVec.ofNat 32 (leNat [b0, b1, b2, b3])

/-- The operand bytes of an op byte (R63), and the bytes after them; nothing if the op is reserved or a byte is missing. -/
def decodeOperands (ph : Phase) (op : Byte) (bs : List Byte) : Option (Instr × List Byte) :=
  match op.toNat with
  | 0 =>
    match bs with
    | b :: rest => some (rxByteInstr ph b, rest)
    | _ => none
  | 1 => some (rxTimeoutInstr ph, bs)
  | 2 =>
    match bs with
    | n0 :: n1 :: more => (takeBytes (u16Of n0 n1).toNat more).map fun r => (.crcCompute r.1, r.2)
    | _ => none
  | 3 =>
    match bs with
    | i0 :: i1 :: n0 :: n1 :: more =>
      (takeBytes (u16Of n0 n1).toNat more).map fun r => (.encFrame (u16Of i0 i1) r.1, r.2)
    | _ => none
  | 4 =>
    match bs with
    | u0 :: u1 :: rest => some (.encStopLog (u16Of u0 u1), rest)
    | _ => none
  | 5 =>
    match bs with
    | l0 :: l1 :: p0 :: p1 :: p2 :: p3 :: o0 :: o1 :: o2 :: o3 :: rest =>
      some (.encStartLog (u16Of l0 l1) (u32Of p0 p1 p2 p3) (u32Of o0 o1 o2 o3), rest)
    | _ => none
  | 6 => some (.reset, bs)
  | _ => none

/-- The input event at the head of the port's bytes, as the row of the phase the parser is in, and the bytes after it. -/
def decodeEvent (ph : Phase) : List Byte → Except PortReject (Instr × List Byte)
  | [] => .error .noEvent
  | op :: bs =>
    match decodeOperands ph op bs with
    | some r => .ok r
    | none => if op.toNat ≤ 6 then .error (.truncated op) else .error (.reservedOp op)

/-! ## Inbound frame keys (R59, R60) -/

/-- The inbound frame kinds of R60. -/
inductive RxKind where
  | logAck
  | nav244
  | nav241
  | nav1Quirk
  | resp244
  | resp241
  | unexpected
  deriving DecidableEq, Repr

/-- One inbound row of R60. -/
structure RxRow where
  kind : RxKind
  pat : Key
  mask : Key
  deriving DecidableEq, Repr

/-- The inbound rows of R60, in the table's order. -/
def rxRows : List RxRow :=
  [⟨.logAck, 0x800001#24, 0x80FFFF#24⟩,
   ⟨.nav244, 0x0000F4#24, 0x80FFFF#24⟩,
   ⟨.nav241, 0x0000F1#24, 0x80FFFF#24⟩,
   ⟨.nav1Quirk, 0x000001#24, 0x80FFFF#24⟩,
   ⟨.resp244, 0x8000F4#24, 0x80FFFF#24⟩,
   ⟨.resp241, 0x8000F1#24, 0x80FFFF#24⟩,
   ⟨.unexpected, 0x000000#24, 0x000000#24⟩]

/-- R59: the first row in table order with `K & mask = match`. The last row matches every key. -/
def rxKind (k : Key) : RxKind :=
  match rxRows.find? (fun r => k &&& r.mask == r.pat) with
  | some r => r.kind
  | none => .unexpected

/-- `K[15:0]`: the message id (R59). -/
def keyId (k : Key) : U16 := k.extractLsb' 0 16

/-- `K[22:16]`: the ignored type bits (R59). -/
def keyType (k : Key) : BitVec 7 := k.extractLsb' 16 7

/-- `K[23]`: the response flag (R59). -/
def keyResp (k : Key) : Bool := k.getLsbD 23

/-- The key with these fields (R59). -/
def mkKey (id : U16) (t : BitVec 7) (resp : Bool) : Key := BitVec.ofBool resp ++ t ++ id

/-- The inbound frame kind of a key, with the key's other bits as operands. Every key has one (R61). -/
def keyInstr (k : Key) : Instr :=
  match rxKind k with
  | .logAck => .logAck (keyType k)
  | .nav244 => .nav244 (keyType k)
  | .nav241 => .nav241 (keyType k)
  | .nav1Quirk => .nav1Quirk (keyType k)
  | .resp244 => .resp244 (keyType k)
  | .resp241 => .resp241 (keyType k)
  | .unexpected => .unexpected (keyId k) (keyResp k) (keyType k)

/-- The key at the head of the bytes (header offsets 1 to 3, R59). -/
def decodeKey (bs : List Byte) : Except Reject (Instr × List Byte) :=
  match takeBytes 3 bs with
  | some (ks, rest) => .ok (keyInstr (BitVec.ofNat 24 (leNat ks)), rest)
  | none => .error .shortFrame

/-! ## Frames as the encoder writes them (R46, R47, R57, R58, R113) -/

/-- The sync bytes (R46). -/
def syncBytes : List Byte := [0xAA#8, 0x44#8, 0x12#8]

/-- The 25 header bytes of a transmitted frame (R47). -/
def txHeader (p : Params) (id n : U16) : List Byte :=
  p.hdrLenByte :: (leBytes 2 id.toNat ++ [0x00#8, p.hdrPort] ++ leBytes 2 n.toNat ++ List.replicate 18 0x00#8)

/-- ENC_HEADER(id, n) (R113): the 28 bytes sync and header. -/
def encHeader (p : Params) (id n : U16) : List Byte := syncBytes ++ txHeader p id n

/-- The message id of the start-logging command (R58). -/
def startLogId : U16 := 1#16

/-- The message id of the stop-logging command (R57). -/
def stopLogId : U16 := 36#16

/-- The 8 payload bytes of the stop-logging command (R57). -/
def stopLogPayload (p : Params) (uid : U16) : List Byte :=
  leBytes 4 p.cmdPort.toNat ++ leBytes 2 uid.toNat ++ [0x00#8, 0x00#8]

/-- The 24 payload bytes of the start-logging command (R58); the trigger mode is always 2, "on time" (R117). -/
def startLogPayload (p : Params) (lid : U16) (per off : U32) : List Byte :=
  leBytes 4 p.cmdPort.toNat ++ leBytes 2 lid.toNat ++ [0x00#8, 0x00#8] ++ leBytes 4 2 ++ leBytes 4 per.toNat
    ++ leBytes 4 off.toNat ++ [0x00#8, 0x00#8, 0x00#8, 0x00#8]

/-- The outbound rows of R60: mask 0xFFFFFF, so the whole key is compared. The two commands' header and payload are read
at R47's, R57's and R58's offsets, and every constant byte must be what the encoder writes. -/
def decodeCommand (p : Params) (bs : List Byte) : Except Reject (Instr × List Byte) :=
  match takeBytes 25 bs with
  | none => .error .shortFrame
  | some (h, more) =>
    match takeBytes (leAt h 5 2) more with
    | none => .error .shortFrame
    | some (pay, rest) =>
      if leAt h 1 3 = 0x000001 then
        let lid := BitVec.ofNat 16 (leAt pay 4 2)
        let per := BitVec.ofNat 32 (leAt pay 12 4)
        let off := BitVec.ofNat 32 (leAt pay 16 4)
        if h = txHeader p startLogId 24#16 ∧ pay = startLogPayload p lid per off then .ok (.cmdStartLog lid per off, rest)
        else .error .notCommand
      else if leAt h 1 3 = 0x000024 then
        let uid := BitVec.ofNat 16 (leAt pay 4 2)
        if h = txHeader p stopLogId 8#16 ∧ pay = stopLogPayload p uid then .ok (.cmdStopLog uid, rest)
        else .error .notCommand
      else .error .notCommand

/-! ## The decoder and the encoder -/

/-- The instruction at the head of the bytes, in one of the three encodings. The phase selects the row of RX_BYTE and
RX_TIMEOUT (one op byte stands for all of them, R63); the parameters are needed for the outbound rows only. -/
def decode (p : Params) (f : Format) (ph : Phase) (bs : List Byte) : Except Reject (Instr × List Byte) :=
  match f with
  | .portOp =>
    match decodeEvent ph bs with
    | .ok r => .ok r
    | .error e => .error (.port e)
  | .frameKey => decodeKey bs
  | .frameOut => decodeCommand p bs

/-- The bytes of an instruction: an input event's op and operand bytes (R63), an inbound frame's three key bytes (R59,
R60), an outbound command's header and payload (R47, R57, R58). -/
def encode (p : Params) : Instr → List Byte
  | .logAck t => leBytes 3 (mkKey 1#16 t true).toNat
  | .nav244 t => leBytes 3 (mkKey 244#16 t false).toNat
  | .nav241 t => leBytes 3 (mkKey 241#16 t false).toNat
  | .nav1Quirk t => leBytes 3 (mkKey 1#16 t false).toNat
  | .resp244 t => leBytes 3 (mkKey 244#16 t true).toNat
  | .resp241 t => leBytes 3 (mkKey 241#16 t true).toNat
  | .unexpected id resp t => leBytes 3 (mkKey id t resp).toNat
  | .cmdStartLog lid per off => txHeader p startLogId 24#16 ++ startLogPayload p lid per off
  | .cmdStopLog uid => txHeader p stopLogId 8#16 ++ stopLogPayload p uid
  | .rxByteHunt0 b | .rxByteHunt1 b | .rxByteHunt2 b | .rxByteHdr b | .rxBytePay b | .rxByteCks b => [0x00#8, b]
  | .rxTimeoutHunt | .rxTimeoutCollect => [0x01#8]
  | .crcCompute bs => 0x02#8 :: (leBytes 2 bs.length ++ bs)
  | .encFrame id bs => 0x03#8 :: (leBytes 2 id.toNat ++ leBytes 2 bs.length ++ bs)
  | .encStopLog uid => 0x04#8 :: leBytes 2 uid.toNat
  | .encStartLog lid per off => 0x05#8 :: (leBytes 2 lid.toNat ++ leBytes 4 per.toNat ++ leBytes 4 off.toNat)
  | .reset => [0x06#8]

/-! ## Words of the opcode table -/

/-- How many bytes the input event takes whose bytes are those of `w`, least significant first (R63, R64). -/
def eventSize (w : Nat) : Nat :=
  match w % 256 with
  | 0 => 2
  | 2 => 3 + w / 256 % 65536
  | 3 => 5 + w / 16777216 % 65536
  | 4 => 3
  | 5 => 11
  | _ => 1

/-- The event's bytes: those of `w`, then zeros. -/
def eventBytes (w : Nat) : List Byte := leBytes (eventSize w) w

/-- Whether a table word of this many bits is a dispatch key (the rows of format `frame-key` and `frame-out` have 24
bits, the rows of format `port-op` 8). -/
def isKeyWord (nbits : Nat) : Bool := nbits == 24

/-- The instruction the decoder reads from a table word. A 24-bit word is an inbound key: R60 says an outbound frame
decodes by the inbound rows. Any other word is an input event, read in phase HUNT0, the phase after reset. -/
def decodeTableWord (nbits w : Nat) : Option Instr :=
  let v := w % 2 ^ nbits
  if isKeyWord nbits then
    match decodeKey (leBytes 3 v) with
    | .ok (i, _) => some i
    | .error _ => none
  else
    match decodeEvent .hunt0 (eventBytes v) with
    | .ok (i, _) => some i
    | .error _ => none

end Sys2Proof
end

