-- ==== Sys2Proof/Machine/Params.lean ====
section
/-! DEFINITION. The parameter values the model starts from: the example instantiation E0 of 00_scope.md R7. E0 is not a
claim about the hardware (R7); the parameters are a field of State that no step writes, and every statement holds for
every value of them (log entry 1). -/

namespace Sys2Proof.Machine

/-- E0 (R7). -/
def paramsE0 : Params where
  crcPoly := 0xEDB88320#32
  crcInit := 0#32
  crcXorOut := 0#32
  hdrLenByte := 28#8
  hdrPort := 0xC0#8
  cmdPort := 1#32
  offTstat := 10
  offWeek := 11
  offMs := 13
  ackOk := 1#32
  ackCrcErr := 2#32
  respNav := .unexpected

end Sys2Proof.Machine
end

