-- ==== Sys2Proof/Machine/State.lean ====
section
/-! DEFINITION. The state of the block: the six components of 10_state.md R14, its two ports (R24, R25), the static
parameters (R7, R26) and the model's own counter of free values. Plain data throughout. -/

namespace Sys2Proof.Machine

/-- A buffer: its bytes as (index, byte) pairs with strictly rising indices, none equal to what an unlisted index reads
as (`Memory.blank` in Ops.lean). -/
abbrev Memory := List Host.Cell

/-- The block's three buffers, its only storage (20_memory.md R30). -/
inductive BufName where
  | hdrBuf
  | payBuf
  | rxCrc
  deriving DecidableEq, Repr

/-- ACK_CLASS's results (42_decoder.md R101). -/
inductive AckClass where
  | ok
  | crcErr
  | other
  deriving DecidableEq, Repr

/-- NAVFIELDS (R106): raw enumerations (R109) and raw float bits (R110). -/
structure NavFields where
  tstat : Byte
  week : U16
  ms : U32
  posStatus : U32
  posType : U32
  posX : U64
  posY : U64
  posZ : U64
  perrX : U32
  perrY : U32
  perrZ : U32
  velStatus : U32
  velType : U32
  velX : U64
  velY : U64
  velZ : U64
  verrX : U32
  verrY : U32
  verrZ : U32
  numSats : Byte
  deriving DecidableEq, Repr

/-- The output events of R62. -/
inductive OutEvent where
  | frameOk
  | gpsTime (week : U16) (ms : U32) (tstat : Byte)
  | ack (status : U32) (cls : AckClass)
  | navSample (msgId : U16) (fields : NavFields)
  | unexpectedId (msgId : U16) (resp : Bool)
  | shortRead (ph : Phase) (got : U16)
  | checksumMismatch (computed received : U32)
  | txFrame (bytes : List Byte)
  | crcResult (v : U32)
  deriving DecidableEq, Repr

/-- The state. -/
structure State where
  /-- The static parameters (R7, R26): no step writes them. -/
  params : Params
  /-- The parser's phase (R17). -/
  phase : Phase
  /-- The byte counter (R18). -/
  cnt : U16
  /-- The payload length of the frame being collected (R19). -/
  plen : U16
  /-- HdrBuf, 25 bytes (R20). -/
  hdrBuf : Memory
  /-- PayBuf, 65535 bytes (R21). -/
  payBuf : Memory
  /-- RxCrc, 4 bytes (R22). -/
  rxCrc : Memory
  /-- The input port (R24): the events the host has given and the block has not taken, as the bytes of R63. -/
  input : List Byte
  /-- The output port (R25, R42): the events emitted, oldest first. -/
  output : List OutEvent
  /-- The model's own: how many free values have been drawn (R107, log entry 3). -/
  draws : Nat
  deriving DecidableEq, Repr

/-- Why the machine stops with a fault. The spec has no fault (93_implementation_defined.md, section 1), and no state
that meets `Inv` reaches this one. -/
inductive Fault where
  /-- Raised by RX_BYTE in HDR, PAY and CKS when `cnt` is no index of the buffer, which R31 says no rule does.
  Safe: the machine stops where the spec says nothing can happen. -/
  | bufferIndex (buf : BufName) (index : Nat)
  deriving DecidableEq, Repr

/-- Why the machine refuses. -/
inductive Refusal where
  /-- Raised by an arm of `exec` whose instruction has no meaning yet (none here). Safe: the machine stops. -/
  | notModelled (mnemonic : String)
  /-- Raised by `step` on an op byte 0x07 to 0xFF, which R63 refuses (93_implementation_defined.md U16). Safe. -/
  | reservedOp (op : Byte)
  /-- Raised by `step` when the input ends in the middle of an event's operands (U17). Safe. -/
  | truncatedEvent (op : Byte)
  deriving DecidableEq, Repr

/-- The block after RESET at power-up (R29): HUNT0, counters 0, ports empty. The buffers' contents are unspecified; here
nothing is listed (log entry 2). The parameters are E0 (log entry 1). -/
def State.reset : State where
  params := paramsE0
  phase := .hunt0
  cnt := 0#16
  plen := 0#16
  hdrBuf := []
  payBuf := []
  rxCrc := []
  input := []
  output := []
  draws := 0

end Sys2Proof.Machine
end

