-- ==== Sys2Proof/Machine/Ops.lean ====
section
/-! DEFINITION. The shared operations: reading and writing buffer bytes, the field updates of State, emitting events,
storing a received byte, and what the spec has in the place of taking an exception (60_exceptions.md R127). -/

namespace Sys2Proof.Machine

/-! ## Outcomes -/

/-- Go on from a next state; stop where the first part stopped. -/
def andThen (o : Host.Outcome State Fault Refusal) (f : State → Host.Outcome State Fault Refusal) :
    Host.Outcome State Fault Refusal :=
  match o with
  | .next t => f t
  | .fault r => .fault r
  | .refused r => .refused r

/-- The next state, if there is one. -/
def nextOf (o : Host.Outcome State Fault Refusal) : Option State :=
  match o with
  | .next t => some t
  | .fault _ => none
  | .refused _ => none

/-! ## Buffer bytes -/

/-- What a buffer byte that nothing has written reads as (R29 leaves it open; log entry 2). -/
def Memory.blank : Byte := 0x00#8

/-- Buffer byte `i` (R11). -/
def Memory.read (m : Memory) (i : Nat) : Byte :=
  match m with
  | [] => Memory.blank
  | (k, v) :: rest => if k = i then v else Memory.read rest i

/-- Put the cell in front, unless it holds what an unlisted index reads as. -/
def Memory.cons (i : Nat) (b : Byte) (m : Memory) : Memory := if b = Memory.blank then m else (i, b) :: m

/-- `Buf[i] <- b` (R11), keeping the canonical form. -/
def Memory.write (m : Memory) (i : Nat) (b : Byte) : Memory :=
  match m with
  | [] => Memory.cons i b []
  | (k, v) :: rest =>
    if k < i then (k, v) :: Memory.write rest i b
    else if k = i then Memory.cons i b rest
    else Memory.cons i b ((k, v) :: rest)

/-- The canonical form of a buffer of `cap` bytes above index `lo`: indices rise strictly from `lo`, stay below `cap`,
and no cell holds the blank value. -/
def Memory.wfFrom (lo cap : Nat) (m : Memory) : Bool :=
  match m with
  | [] => true
  | (k, v) :: rest => decide (lo ≤ k) && decide (k < cap) && (v != Memory.blank) && Memory.wfFrom (k + 1) cap rest

/-- The canonical form of a buffer of `cap` bytes. -/
def Memory.wf (cap : Nat) (m : Memory) : Bool := Memory.wfFrom 0 cap m

/-- `Buf[o..o+n)` (R10). -/
def Memory.slice (m : Memory) (o n : Nat) : List Byte :=
  match n with
  | 0 => []
  | n + 1 => Memory.read m o :: Memory.slice m (o + 1) n

/-- The size of each buffer (R31). -/
def BufName.cap : BufName → Nat
  | .hdrBuf => 25
  | .payBuf => 65535
  | .rxCrc => 4

/-! ## State updates -/

/-- `phase <- ph` (R11). -/
def State.setPhase (ph : Phase) (s : State) : State := { s with phase := ph }

/-- `cnt <- n`. -/
def State.setCnt (n : U16) (s : State) : State := { s with cnt := n }

/-- `plen <- n`. -/
def State.setPlen (n : U16) (s : State) : State := { s with plen := n }

/-- A buffer's contents. -/
def State.buf (s : State) : BufName → Memory
  | .hdrBuf => s.hdrBuf
  | .payBuf => s.payBuf
  | .rxCrc => s.rxCrc

/-- Replace a buffer's contents. -/
def State.setBuf (n : BufName) (m : Memory) (s : State) : State :=
  match n with
  | .hdrBuf => { s with hdrBuf := m }
  | .payBuf => { s with payBuf := m }
  | .rxCrc => { s with rxCrc := m }

/-- Replace the bytes waiting at the input port. -/
def State.setInput (bs : List Byte) (s : State) : State := { s with input := bs }

/-- `emit EV(args)` (R11): append to the output port, which keeps the order and loses nothing (R42). -/
def State.emit (evs : List OutEvent) (s : State) : State := { s with output := s.output ++ evs }

/-- Count `n` free values as drawn. -/
def State.addDraws (n : Nat) (s : State) : State := { s with draws := s.draws + n }

/-- `phase <- HUNT0; cnt <- 0`: where every frame ends (R88 to R90). -/
def State.hunt (s : State) : State := (s.setPhase .hunt0).setCnt 0#16

/-! ## What stands in the place of an exception -/

/-- R127, the nearest thing to trap entry: `raise` the status event, then `phase <- HUNT0; cnt <- 0`. Nothing is saved and
no mode changes. There is no return from it (R128). -/
def State.resync (ev : OutEvent) (s : State) : State := (s.emit [ev]).hunt

/-! ## Storing a received byte -/

/-- `Buf[cnt] <- b; cnt <- cnt + 1` (R83, R85, R86). An index outside the buffer faults (R31). -/
def storeByte (n : BufName) (b : Byte) (s : State) : Host.Outcome State Fault Refusal :=
  if s.cnt.toNat < n.cap then .next ((s.setBuf n (Memory.write (s.buf n) s.cnt.toNat b)).setCnt (s.cnt + 1#16))
  else .fault (.bufferIndex n s.cnt.toNat)

/-! ## Fetching the next input event -/

/-- The input event waiting at the port, and the bytes after it. -/
def fetch (s : State) : Except PortReject (Instr × List Byte) := decodeEvent s.phase s.input

end Sys2Proof.Machine
end

