-- ==== Sys2Proof/Machine/Crc.lean ====
section
/-! DEFINITION. The CRC-32 engine (40_crc.md). The polynomial, initial value and final XOR are parameters. -/

namespace Sys2Proof.Machine

/-- One one-bit step of R68: shift right; if the bit shifted out was 1, XOR the polynomial in. -/
def crcBit (poly acc : U32) : U32 := if acc.getLsbD 0 then (acc >>> 1) ^^^ poly else acc >>> 1

/-- `n` one-bit steps. -/
def crcBits (poly : U32) : Nat → U32 → U32
  | 0, acc => acc
  | n + 1, acc => crcBits poly n (crcBit poly acc)

/-- CRC_STEP(acc, b) (R68): fold the byte into the low byte, then eight one-bit steps. -/
def crcStep (poly acc : U32) (b : Byte) : U32 := crcBits poly 8 (acc ^^^ b.setWidth 32)

/-- FOLD(acc, s) (R74): the loop of R69. -/
def crcFold (poly acc : U32) : List Byte → U32
  | [] => acc
  | b :: bs => crcFold poly (crcStep poly acc b) bs

/-- CRC(s) (R69). -/
def crc (p : Params) (bs : List Byte) : U32 := crcFold p.crcPoly p.crcInit bs ^^^ p.crcXorOut

/-- CRC_COMPUTE(s) (R77): `emit CRC_RESULT(CRC(s))`. -/
def execCrcCompute (bs : List Byte) (s : State) : Host.Outcome State Fault Refusal :=
  .next (s.emit [.crcResult (crc s.params bs)])

end Sys2Proof.Machine
end

