-- ==== Sys2Proof/Machine/Encoder.lean ====
section
/-! DEFINITION. The frame and command encoder (43_encoder.md): each operation emits one TX_FRAME and changes nothing else.
The two outbound frame kinds of 30_encoding.md R60 are the frames ENC_START_LOG and ENC_STOP_LOG build. -/

namespace Sys2Proof.Machine

/-- A whole frame (R46, R114): sync, header, payload and `LE_4(CRC(sync ++ header ++ payload))`. -/
def frame (p : Params) (id : U16) (bs : List Byte) : List Byte :=
  let h := encHeader p id (BitVec.ofNat 16 bs.length) ++ bs
  h ++ leBytes 4 (crc p h).toNat

/-- `tx(bytes)` of a whole frame (R11, R122): one TX_FRAME event. -/
def sendFrame (id : U16) (bs : List Byte) (s : State) : State := s.emit [.txFrame (frame s.params id bs)]

/-- ENC_FRAME(id, s) (R114). -/
def execEncFrame (id : U16) (bs : List Byte) (s : State) : Host.Outcome State Fault Refusal :=
  .next (sendFrame id bs s)

/-- ENC_STOP_LOG(uid) (R115): ENC_FRAME(36, ...). -/
def execEncStopLog (uid : U16) (s : State) : Host.Outcome State Fault Refusal :=
  .next (sendFrame stopLogId (stopLogPayload s.params uid) s)

/-- ENC_START_LOG(lid, per, off) (R116): ENC_FRAME(1, ...). -/
def execEncStartLog (lid : U16) (per off : U32) (s : State) : Host.Outcome State Fault Refusal :=
  .next (sendFrame startLogId (startLogPayload s.params lid per off) s)

/-- CMD_STOP_LOG (R60, R115): the outbound frame that ENC_STOP_LOG sends. -/
def execCmdStopLog (uid : U16) (s : State) : Host.Outcome State Fault Refusal :=
  .next (sendFrame stopLogId (stopLogPayload s.params uid) s)

/-- CMD_START_LOG (R60, R116): the outbound frame that ENC_START_LOG sends. -/
def execCmdStartLog (lid : U16) (per off : U32) (s : State) : Host.Outcome State Fault Refusal :=
  .next (sendFrame startLogId (startLogPayload s.params lid per off) s)

end Sys2Proof.Machine
end

