-- ==== Sys2Proof/Machine/Operands.lean ====
section
/-! DEFINITION. The operand forms: `le_n(Buf, o)` on a buffer (00_scope.md R10), the header fields (42_decoder.md R97) and
the payload fields with their free values (R107). No field has an alignment requirement (20_memory.md R35). -/

namespace Sys2Proof.Machine

/-! ## Buffer fields -/

/-- `le_1(Buf, o)`. -/
def le1 (m : Memory) (o : Nat) : Byte := Memory.read m o

/-- `le_2(Buf, o)`. -/
def le2 (m : Memory) (o : Nat) : U16 := BitVec.ofNat 16 (leNat (Memory.slice m o 2))

/-- `le_3(Buf, o)`. -/
def le3 (m : Memory) (o : Nat) : Key := BitVec.ofNat 24 (leNat (Memory.slice m o 3))

/-- `le_4(Buf, o)`. -/
def le4 (m : Memory) (o : Nat) : U32 := BitVec.ofNat 32 (leNat (Memory.slice m o 4))

/-- `le_8(Buf, o)`. -/
def le8 (m : Memory) (o : Nat) : U64 := BitVec.ofNat 64 (leNat (Memory.slice m o 8))

/-! ## Header fields (R97). `hdr_len` and `hdr_port` are used by no decision (R48, R51). -/

/-- `hdr_len`. -/
def State.hdrLen (s : State) : Byte := le1 s.hdrBuf 0

/-- `msg_id` (R49). -/
def State.msgId (s : State) : U16 := le2 s.hdrBuf 1

/-- `msg_type` (R50). -/
def State.msgType (s : State) : Byte := le1 s.hdrBuf 3

/-- `hdr_port`. -/
def State.hdrPort (s : State) : Byte := le1 s.hdrBuf 4

/-- `hdr_plen` (R52). -/
def State.hdrPlen (s : State) : U16 := le2 s.hdrBuf 5

/-- `hdr_tstat` (R53). -/
def State.hdrTstat (s : State) : Byte := le1 s.hdrBuf s.params.offTstat.val

/-- `hdr_week` (R53). -/
def State.hdrWeek (s : State) : U16 := le2 s.hdrBuf s.params.offWeek.val

/-- `hdr_ms` (R53). -/
def State.hdrMs (s : State) : U32 := le4 s.hdrBuf s.params.offMs.val

/-- The dispatch key `K` (R59). -/
def State.key (s : State) : Key := le3 s.hdrBuf 1

/-! ## Payload fields (R107): exact where the field lies within the payload, a free value where it does not -/

/-- Whether the byte range `[o, o+n)` lies wholly within `[0, plen)`. -/
def State.fits (s : State) (o n : Nat) : Bool := o + n ≤ s.plen.toNat

/-- A u8 payload field at `o`; `k` numbers the field's own draw. -/
def State.payU8 (s : State) (k o : Nat) : Byte :=
  if s.fits o 1 then le1 s.payBuf o else (Config.freeField (s.draws + k)).setWidth 8

/-- A u32 (or f32) payload field. -/
def State.payU32 (s : State) (k o : Nat) : U32 :=
  if s.fits o 4 then le4 s.payBuf o else (Config.freeField (s.draws + k)).setWidth 32

/-- A u64 (f64) payload field. -/
def State.payU64 (s : State) (k o : Nat) : U64 :=
  if s.fits o 8 then le8 s.payBuf o else Config.freeField (s.draws + k)

/-- NAVFIELDS (R106), at the payload offsets of 30_encoding.md R56. -/
def State.navFields (s : State) : NavFields where
  tstat := s.hdrTstat
  week := s.hdrWeek
  ms := s.hdrMs
  posStatus := s.payU32 0 0
  posType := s.payU32 1 4
  posX := s.payU64 2 8
  posY := s.payU64 3 16
  posZ := s.payU64 4 24
  perrX := s.payU32 5 32
  perrY := s.payU32 6 36
  perrZ := s.payU32 7 40
  velStatus := s.payU32 8 44
  velType := s.payU32 9 48
  velX := s.payU64 10 52
  velY := s.payU64 11 60
  velZ := s.payU64 12 68
  verrX := s.payU32 13 76
  verrY := s.payU32 14 80
  verrZ := s.payU32 15 84
  numSats := s.payU8 16 104

/-- How many payload fields NAV_SAMPLE has, each with its own draw. -/
def navDraws : Nat := 17

/-- The status of an acknowledgment (R55, R100). -/
def State.ackStatus (s : State) : U32 := s.payU32 0 0

end Sys2Proof.Machine
end

