-- ==== Sys2Proof/Machine/Flags.lean ====
section
/-! DEFINITION. The block has no flag register and no condition codes (10_state.md R23). What it computes in their place:
the response flag, the acknowledgment class, and the numeric codes of R17 and R62. -/

namespace Sys2Proof.Machine

/-- `is_response = msg_type[7]` (42_decoder.md R97): computed, never stored (R23). -/
def State.isResponse (s : State) : Bool := s.msgType.getLsbD 7

/-- ACK_CLASS(status) (R101). -/
def ackClass (p : Params) (status : U32) : AckClass :=
  if status = p.ackOk then .ok else if status = p.ackCrcErr then .crcErr else .other

/-- The phase codes of R17. -/
def phaseCode : Phase → BitVec 3
  | .hunt0 => 0#3
  | .hunt1 => 1#3
  | .hunt2 => 2#3
  | .hdr => 3#3
  | .pay => 4#3
  | .cks => 5#3

/-- The source's sync progress (R17): 0, 1 or 2 sync bytes matched; 3 in a frame candidate. -/
def syncProgress : Phase → Nat
  | .hunt0 => 0
  | .hunt1 => 1
  | .hunt2 => 2
  | .hdr => 3
  | .pay => 3
  | .cks => 3

/-- The output event codes of R62. -/
def eventCode : OutEvent → Byte
  | .frameOk => 0x01#8
  | .gpsTime _ _ _ => 0x02#8
  | .ack _ _ => 0x03#8
  | .navSample _ _ => 0x04#8
  | .unexpectedId _ _ => 0x05#8
  | .shortRead _ _ => 0x10#8
  | .checksumMismatch _ _ => 0x11#8
  | .txFrame _ => 0x20#8
  | .crcResult _ => 0x21#8

/-- The events that report an error (60_exceptions.md R124): SHORT_READ, CHECKSUM_MISMATCH, UNEXPECTED_ID, and ACK with a
class other than OK. -/
def isError : OutEvent → Bool
  | .shortRead _ _ => true
  | .checksumMismatch _ _ => true
  | .unexpectedId _ _ => true
  | .ack _ cls => cls != .ok
  | .frameOk => false
  | .gpsTime _ _ _ => false
  | .navSample _ _ => false
  | .txFrame _ => false
  | .crcResult _ => false

end Sys2Proof.Machine
end

