-- ==== Sys2Proof/Machine/Decoder.lean ====
section
/-! DEFINITION. The message decoder (42_decoder.md): the meanings of the inbound frame kinds. They run inside the step
that accepts a frame (R96), read HdrBuf, PayBuf and plen, and write none of the state of 10_state.md R14 (R111). -/

namespace Sys2Proof.Machine

/-- `emit ACK(status, ACK_CLASS(status))` with `status = le_4(PayBuf, 0)` (R100, R101). -/
def emitAck (s : State) : State := (s.emit [.ack s.ackStatus (ackClass s.params s.ackStatus)]).addDraws 1

/-- `emit NAV_SAMPLE(id, NAVFIELDS)` (R102, R106). -/
def emitNav (id : U16) (s : State) : State := (s.emit [.navSample id s.navFields]).addDraws navDraws

/-- `raise UNEXPECTED_ID(id, resp)` (R105). -/
def emitUnexpected (id : U16) (resp : Bool) (s : State) : State := s.emit [.unexpectedId id resp]

/-- RESP_NAV (R104): the outcome of a navigation id with the response flag, per P_RESP_NAV. -/
def emitRespNav (id : U16) (s : State) : State :=
  match s.params.respNav with
  | .unexpected => emitUnexpected id true s
  | .decode => emitNav id s

/-- LOG_ACK (R100). -/
def execLogAck (_t : BitVec 7) (s : State) : Host.Outcome State Fault Refusal := .next (emitAck s)

/-- NAV_244 (R102). -/
def execNav244 (_t : BitVec 7) (s : State) : Host.Outcome State Fault Refusal := .next (emitNav 244#16 s)

/-- NAV_241 (R102). -/
def execNav241 (_t : BitVec 7) (s : State) : Host.Outcome State Fault Refusal := .next (emitNav 241#16 s)

/-- NAV_1_QUIRK (R103). -/
def execNav1Quirk (_t : BitVec 7) (s : State) : Host.Outcome State Fault Refusal := .next (emitNav 1#16 s)

/-- RESP_244 (R104). -/
def execResp244 (_t : BitVec 7) (s : State) : Host.Outcome State Fault Refusal := .next (emitRespNav 244#16 s)

/-- RESP_241 (R104). -/
def execResp241 (_t : BitVec 7) (s : State) : Host.Outcome State Fault Refusal := .next (emitRespNav 241#16 s)

/-- UNEXPECTED (R105). -/
def execUnexpected (id : U16) (resp : Bool) (_t : BitVec 7) (s : State) : Host.Outcome State Fault Refusal :=
  .next (emitUnexpected id resp s)

/-- Dispatch on K (R99), by the table of 30_encoding.md R60: run the frame kind of the key. -/
def dispatchFrame (k : Key) (s : State) : Host.Outcome State Fault Refusal :=
  match rxKind k with
  | .logAck => execLogAck (keyType k) s
  | .nav244 => execNav244 (keyType k) s
  | .nav241 => execNav241 (keyType k) s
  | .nav1Quirk => execNav1Quirk (keyType k) s
  | .resp244 => execResp244 (keyType k) s
  | .resp241 => execResp241 (keyType k) s
  | .unexpected => execUnexpected (keyId k) (keyResp k) (keyType k) s

/-- GPS_TIME(hdr_week, hdr_ms, hdr_tstat) (R98). -/
def State.gpsTimeEvent (s : State) : OutEvent := .gpsTime s.hdrWeek s.hdrMs s.hdrTstat

/-- DECODE (R96): push the GPS time, then dispatch on the key in HdrBuf. -/
def decodeFrame (s : State) : Host.Outcome State Fault Refusal := dispatchFrame s.key (s.emit [s.gpsTimeEvent])

end Sys2Proof.Machine
end

