-- ==== Sys2Proof/Machine/Parser.lean ====
section
/-! DEFINITION. The frame synchronizer and parser (41_sync_parser.md): RX_BYTE and RX_TIMEOUT in each phase. -/

namespace Sys2Proof.Machine

/-! ## Sync hunting -/

/-- RX_BYTE in HUNT0 (R79). -/
def execRxByteHunt0 (b : Byte) (s : State) : Host.Outcome State Fault Refusal :=
  .next (s.setPhase (if b = 0xAA#8 then .hunt1 else .hunt0))

/-- RX_BYTE in HUNT1 (R80). -/
def execRxByteHunt1 (b : Byte) (s : State) : Host.Outcome State Fault Refusal :=
  .next (s.setPhase (if b = 0x44#8 then .hunt2 else if b = 0xAA#8 then .hunt1 else .hunt0))

/-- RX_BYTE in HUNT2 (R81): 0xAA goes to HUNT0. -/
def execRxByteHunt2 (b : Byte) (s : State) : Host.Outcome State Fault Refusal :=
  .next (if b = 0x12#8 then (s.setPhase .hdr).setCnt 0#16 else s.setPhase .hunt0)

/-- RX_TIMEOUT in HUNT0, HUNT1 or HUNT2 (R82): `skip`. -/
def execRxTimeoutHunt (s : State) : Host.Outcome State Fault Refusal := .next s

/-! ## Frame-candidate collection -/

/-- Header complete (R84). -/
def headerComplete (s : State) : State :=
  ((s.setPlen s.hdrPlen).setCnt 0#16).setPhase (if s.hdrPlen = 0#16 then .cks else .pay)

/-- RX_BYTE in HDR (R83). -/
def execRxByteHdr (b : Byte) (s : State) : Host.Outcome State Fault Refusal :=
  andThen (storeByte .hdrBuf b s) fun t => .next (if t.cnt = 25#16 then headerComplete t else t)

/-- RX_BYTE in PAY (R85). -/
def execRxBytePay (b : Byte) (s : State) : Host.Outcome State Fault Refusal :=
  andThen (storeByte .payBuf b s) fun t => .next (if t.cnt = t.plen then (t.setCnt 0#16).setPhase .cks else t)

/-- The bytes the frame's CRC covers (R93): the canonical sync bytes, the header and the payload. -/
def State.frameBytes (s : State) : List Byte :=
  syncBytes ++ Memory.slice s.hdrBuf 0 25 ++ Memory.slice s.payBuf 0 s.plen.toNat

/-- `computed` of R87. -/
def State.computedCrc (s : State) : U32 := crc s.params s.frameBytes

/-- `received` of R87 (30_encoding.md R54). -/
def State.receivedCrc (s : State) : U32 := le4 s.rxCrc 0

/-- Accept (R88): FRAME_OK, the decode, then back to HUNT0. -/
def acceptFrame (s : State) : Host.Outcome State Fault Refusal :=
  andThen (decodeFrame (s.emit [.frameOk])) fun t => .next t.hunt

/-- Reject (R89). -/
def rejectFrame (s : State) : State := s.resync (.checksumMismatch s.computedCrc s.receivedCrc)

/-- Frame check (R87): the only acceptance test. -/
def frameCheck (s : State) : Host.Outcome State Fault Refusal :=
  if s.computedCrc = s.receivedCrc then acceptFrame s else .next (rejectFrame s)

/-- RX_BYTE in CKS (R86). -/
def execRxByteCks (b : Byte) (s : State) : Host.Outcome State Fault Refusal :=
  andThen (storeByte .rxCrc b s) fun t => if t.cnt = 4#16 then frameCheck t else .next t

/-- RX_TIMEOUT in HDR, PAY or CKS (R90). -/
def execRxTimeoutCollect (s : State) : Host.Outcome State Fault Refusal := .next (s.resync (.shortRead s.phase s.cnt))

end Sys2Proof.Machine
end

