-- ==== Sys2Proof/Machine/System.lean ====
section
/-! DEFINITION. RESET, the block's only system operation (70_reset_and_hazards.md). -/

namespace Sys2Proof.Machine

/-- RESET (R143): `phase <- HUNT0; cnt <- 0; plen <- 0`. The buffers become unspecified, and R143 lets a model leave them
as they were. Events already emitted are not withdrawn. -/
def execReset (s : State) : Host.Outcome State Fault Refusal := .next (s.hunt.setPlen 0#16)

end Sys2Proof.Machine
end

