-- ==== Sys2Proof/Machine/Dispatch.lean ====
section
/-! DEFINITION. One arm for each instruction. -/

namespace Sys2Proof.Machine

def exec (i : Instr) (s : State) : Host.Outcome State Fault Refusal :=
  match i with
  | .logAck t => Sys2Proof.Machine.execLogAck t s
  | .nav244 t => Sys2Proof.Machine.execNav244 t s
  | .nav241 t => Sys2Proof.Machine.execNav241 t s
  | .nav1Quirk t => Sys2Proof.Machine.execNav1Quirk t s
  | .resp244 t => Sys2Proof.Machine.execResp244 t s
  | .resp241 t => Sys2Proof.Machine.execResp241 t s
  | .unexpected id resp t => Sys2Proof.Machine.execUnexpected id resp t s
  | .cmdStartLog lid per off => Sys2Proof.Machine.execCmdStartLog lid per off s
  | .cmdStopLog uid => Sys2Proof.Machine.execCmdStopLog uid s
  | .rxByteHunt0 b => Sys2Proof.Machine.execRxByteHunt0 b s
  | .rxByteHunt1 b => Sys2Proof.Machine.execRxByteHunt1 b s
  | .rxByteHunt2 b => Sys2Proof.Machine.execRxByteHunt2 b s
  | .rxByteHdr b => Sys2Proof.Machine.execRxByteHdr b s
  | .rxBytePay b => Sys2Proof.Machine.execRxBytePay b s
  | .rxByteCks b => Sys2Proof.Machine.execRxByteCks b s
  | .rxTimeoutHunt => Sys2Proof.Machine.execRxTimeoutHunt s
  | .rxTimeoutCollect => Sys2Proof.Machine.execRxTimeoutCollect s
  | .crcCompute bs => Sys2Proof.Machine.execCrcCompute bs s
  | .encFrame id bs => Sys2Proof.Machine.execEncFrame id bs s
  | .encStopLog uid => Sys2Proof.Machine.execEncStopLog uid s
  | .encStartLog lid per off => Sys2Proof.Machine.execEncStartLog lid per off s
  | .reset => Sys2Proof.Machine.execReset s

end Sys2Proof.Machine
end

