-- ==== Sys2Proof/Machine/Fetch.lean ====
section
/-! DEFINITION. How one word of the opcode table is put where the next step runs it. An input event is put at the head of
the input port's bytes. A dispatch key is put into HdrBuf, in a frame whose last checksum byte is the next input event,
so that the next step accepts the frame and runs the frame kind of the key (log entry 6). -/

namespace Sys2Proof.Machine

/-- A buffer that holds the bytes from index `o` on, and nothing else. -/
def Memory.ofBytes (o : Nat) (bs : List Byte) : Memory :=
  match bs with
  | [] => []
  | b :: rest => Memory.cons o b (Memory.ofBytes (o + 1) rest)

/-- The event's bytes, and then what the port already held. -/
def placeEvent (w : Nat) (s : State) : State := s.setInput (eventBytes w ++ s.input)

/-- A frame candidate with this key, every other header byte 0 (so no payload): all of it but its last checksum byte. -/
def candidate (k : Key) (s : State) : State :=
  ((((s.setPhase .cks).setCnt 3#16).setPlen 0#16).setBuf .hdrBuf (Memory.ofBytes 1 (leBytes 3 k.toNat)))

/-- The candidate with its checksum received but for the last byte, which is the next input event. -/
def placeKey (k : Key) (s : State) : State :=
  let t := candidate k s
  let sum := leBytes 4 t.computedCrc.toNat
  (t.setBuf .rxCrc (Memory.ofBytes 0 (sum.take 3))).setInput (0x00#8 :: (sum.drop 3 ++ s.input))

/-- A table word of `nbits` bits (the bits above are 0) where the next step runs it. -/
def placeWord (nbits w : Nat) (s : State) : State :=
  if isKeyWord nbits then placeKey (BitVec.ofNat 24 (w % 2 ^ nbits)) s else placeEvent (w % 2 ^ nbits) s

end Sys2Proof.Machine
end

