-- ==== Sys2Proof/Machine/Step.lean ====
section
/-! DEFINITION. One step of the block (00_scope.md R12): take the next input event and run it. -/

namespace Sys2Proof.Machine

/-- One step. With no event waiting the block is idle and keeps its state (60_exceptions.md R142). A reserved op byte and a
partial event are refused (93_implementation_defined.md U16, U17). -/
def step (s : State) : Host.Outcome State Fault Refusal :=
  match fetch s with
  | .ok (i, rest) => exec i (s.setInput rest)
  | .error .noEvent => .next s
  | .error (.reservedOp op) => .refused (.reservedOp op)
  | .error (.truncated op) => .refused (.truncatedEvent op)

/-- The state with one table word where the next step runs it. -/
def State.withFetchWord (s : State) (nbits w : Nat) : State := placeWord nbits w s

end Sys2Proof.Machine
end

