-- ==== Sys2Proof/Machine/HostSide.lean ====
section
/-! DEFINITION. The host side of the ports: the event scripts of 30_encoding.md R65 and R66, and the host contract of
60_exceptions.md R133 to R141. 00_scope.md R5 leaves this software out of the hardware: none of it is in State, and the
block depends on none of it. It is here so that a claim about block and host together can be stated (log entry 8). -/

namespace Sys2Proof.Machine

/-! ## Event scripts -/

/-- One line of an event script (R65). -/
inductive ScriptLine where
  | rx (bs : List Byte)
  | tmo
  | crc (bs : List Byte)
  | enc (id : U16) (bs : List Byte)
  | stop (uid : U16)
  | start (lid : U16) (per off : U32)
  | reset
  deriving DecidableEq, Repr

/-- RX b1 b2 ... (R65): one RX_BYTE event for each byte, in wire order (R33). -/
def rxScript : List Byte → List Byte
  | [] => []
  | b :: bs => 0x00#8 :: b :: rxScript bs

/-- The port bytes of a line (R63). -/
def ScriptLine.bytes (p : Params) : ScriptLine → List Byte
  | .rx bs => rxScript bs
  | .tmo => encode p .rxTimeoutHunt
  | .crc bs => encode p (.crcCompute bs)
  | .enc id bs => encode p (.encFrame id bs)
  | .stop uid => encode p (.encStopLog uid)
  | .start lid per off => encode p (.encStartLog lid per off)
  | .reset => encode p .reset

/-- The port bytes of a script. -/
def assemble (p : Params) (ls : List ScriptLine) : List Byte := ls.flatMap (·.bytes p)

/-- What a read of `asked` bytes that returned `got` gives the block (R24): its bytes, then one RX_TIMEOUT if it came back
short. -/
def readScript (asked : Nat) (got : List Byte) : List ScriptLine :=
  if got.length < asked then [.rx got, .tmo] else [.rx got]

/-! ## The host's parameters and state -/

/-- The parameters of R7 that only the host uses, in milliseconds. -/
structure HostParams where
  /-- T_BYTE: the per-byte read timeout. -/
  tByte : Nat
  /-- T_STALE. -/
  tStale : Nat
  /-- T_GAP. -/
  tGap : Nat
  /-- T_SETTLE. -/
  tSettle : Nat
  /-- BAUD, with 8N1, raw mode and no flow control (R133). -/
  baud : Nat
  deriving DecidableEq, Repr

/-- The source's figures (R7, R156). -/
def hostParams : HostParams where
  tByte := 100
  tStale := 10000
  tGap := 100
  tSettle := 1000
  baud := 38400

/-- The error kinds that belong to the host (R125). -/
inductive HostError where
  | transportOpenFailure
  | transportConfigFailure
  | staleLink
  deriving DecidableEq, Repr

/-! ## The transport (R133) -/

/-- What `open` answers for the device: the host only keeps it and passes it back (R28). -/
abbrev Handle := Nat

/-- A `Result`. -/
inductive CallResult where
  | ok
  | err
  deriving DecidableEq, Repr

/-- The line settings of `configure`: 8N1 is 8 data bits, no parity, 1 stop bit. -/
structure LineConfig where
  baud : Nat
  raw : Bool
  dataBits : Nat
  parity : Bool
  stopBits : Nat
  flowControl : Bool
  deriving DecidableEq, Repr

/-- R133's settings: BAUD, raw mode, 8N1, no flow control. -/
def lineConfig (par : HostParams) : LineConfig where
  baud := par.baud
  raw := true
  dataBits := 8
  parity := false
  stopBits := 1
  flowControl := false

/-- A call of a transport operation, with its answer. `h` is the handle the host holds; a call without one answers as
log entry 17 says. -/
inductive TransportCall where
  /-- `open(path) -> handle | Err`: no handle is Err. -/
  | openPath (path : String) (answer : Option Handle)
  /-- `configure(handle, ...) -> Result`. -/
  | configure (h : Option Handle) (line : LineConfig) (answer : CallResult)
  /-- `read_with_timeout(handle, n_bytes, min_bytes, timeout) -> bytes_read`, which can be short. -/
  | read (h : Option Handle) (nBytes minBytes timeout : Nat) (answer : List Byte)
  /-- `write(handle, bytes) -> Result`. -/
  | write (h : Option Handle) (bs : List Byte) (answer : CallResult)
  /-- `close(handle)`. -/
  | close (h : Option Handle)
  deriving DecidableEq, Repr

/-- The bytes of a write call. -/
def TransportCall.writeBytes : TransportCall → Option (List Byte)
  | .write _ bs _ => some bs
  | .openPath _ _ => none
  | .configure _ _ _ => none
  | .read _ _ _ _ _ => none
  | .close _ => none

/-- The bytes of a write call that answered Ok. -/
def TransportCall.deliveredBytes : TransportCall → Option (List Byte)
  | .write _ bs .ok => some bs
  | .write _ _ .err => none
  | .openPath _ _ => none
  | .configure _ _ _ => none
  | .read _ _ _ _ _ => none
  | .close _ => none

/-- The level of a log line (R140). -/
inductive LogLevel where
  | info
  | warn
  deriving DecidableEq, Repr

/-- What a log line is about. -/
inductive LogItem where
  | event (e : OutEvent)
  | host (e : HostError)
  deriving DecidableEq, Repr

/-- The sink's setters (R138). R138 writes `set_position_status/type` and `set_velocity_status/type` and does not say
whether each is one setter or two (status and type): that each is ONE call here is the model's choice (log entry 8). -/
inductive Setter where
  | positionStatusType
  | velocityStatusType
  | llhPosition
  | posSigma
  | nedVelocity
  | velSigma
  | numSats
  deriving DecidableEq, Repr

/-- A call of the sink or of the time authority (R138). A setter carries the raw sample: the coordinate transforms are
outside the spec (R5). -/
inductive SinkCall where
  | pushNavigationSample (msgId : U16) (f : NavFields)
  | setter (which : Setter) (f : NavFields)
  | notifyUpdated
  | persist (msgId : U16) (f : NavFields)
  | setGpsTime (week : U16) (ms : U32) (tstat : Byte)
  deriving DecidableEq, Repr

/-- The host's state (R28). -/
structure Driver where
  par : HostParams
  /-- The telemetry id, period and offset the host asks for (R118). -/
  telemetryId : U16
  period : U32
  offset : U32
  /-- The time in milliseconds. -/
  now : Nat
  /-- The last-data timestamp (R139); a new start keeps it (log entry 18). -/
  lastData : Option Nat
  /-- The watchdog's staleness clock counts from here (R135). -/
  staleFrom : Nat
  /-- The transport handle, while the transport is open (R28). -/
  handle : Option Handle
  /-- The loop runs. -/
  running : Bool
  /-- A fatal transport error: the application is told to terminate (R125, R134). -/
  failed : Option HostError
  /-- The calls of the transport's operations and their answers, oldest first (R133). -/
  calls : List TransportCall
  sink : List SinkCall
  log : List (LogLevel × LogItem)
  deriving DecidableEq, Repr

/-! ## The transport's operations (R133) -/

/-- Record a call. -/
def Driver.call (c : TransportCall) (d : Driver) : Driver := { d with calls := d.calls ++ [c] }

/-- The frames written to the transport, one write call each (R122, R133), whatever the call answered. -/
def Driver.written (d : Driver) : List (List Byte) := d.calls.filterMap TransportCall.writeBytes

/-- The frames whose write answered Ok. -/
def Driver.delivered (d : Driver) : List (List Byte) := d.calls.filterMap TransportCall.deliveredBytes

/-- `open(path)`: on success the host holds the handle. -/
def Driver.openTransport (path : String) (answer : Option Handle) (d : Driver) : Driver :=
  { d.call (.openPath path answer) with handle := answer }

/-- The answer of a call that needs a handle: Err without one (log entry 17). -/
def Driver.answer (d : Driver) (r : CallResult) : CallResult :=
  match d.handle with
  | some _ => r
  | none => .err

/-- `configure(handle, baud, raw, 8N1, no flow control)`. -/
def Driver.configureTransport (r : CallResult) (d : Driver) : Driver :=
  d.call (.configure d.handle (lineConfig d.par) (d.answer r))

/-- What a read of `asked` bytes answers, of the bytes that have come: at most `asked`, and none without a handle. -/
def Driver.readAnswer (d : Driver) (asked : Nat) (got : List Byte) : List Byte :=
  match d.handle with
  | some _ => got.take asked
  | none => []

/-- `read_with_timeout(handle, n_bytes, min_bytes, timeout)`, with T_BYTE as the timeout. What `min_bytes` does is not in
the source (91_not_in_source.md N20): nothing here depends on it. -/
def Driver.readTransport (asked minBytes : Nat) (got : List Byte) (d : Driver) : Driver :=
  d.call (.read d.handle asked minBytes d.par.tByte (d.readAnswer asked got))

/-- What the transport answers to the next write: a free value (93_implementation_defined.md U22). -/
def Driver.writeAnswer (d : Driver) : CallResult :=
  d.answer (if Config.writeOk d.written.length then .ok else .err)

/-- `write(handle, bytes)`: one call for the whole frame. The host goes on whatever it answers, since a write is
fire-and-forget (20_memory.md R38) and no error kind is named for it (91_not_in_source.md N29). -/
def Driver.writeTransport (bs : List Byte) (d : Driver) : Driver := d.call (.write d.handle bs d.writeAnswer)

/-- `close(handle)`: the host holds no handle any more. -/
def Driver.closeTransport (d : Driver) : Driver := { d.call (.close d.handle) with handle := none }

/-! ## What the host does with an output event -/

/-- The calls for one navigation sample (R138); the order of the setters is the model's (R138 leaves it open). -/
def sampleCalls (id : U16) (f : NavFields) : List SinkCall :=
  [.pushNavigationSample id f, .setter .positionStatusType f, .setter .velocityStatusType f, .setter .llhPosition f,
   .setter .posSigma f, .setter .nedVelocity f, .setter .velSigma f, .setter .numSats f, .notifyUpdated, .persist id f]

/-- The log level of an event (R140), for the events the host logs. -/
def logLevel : OutEvent → Option LogLevel
  | .ack _ .ok => some .info
  | .ack _ .crcErr => some .warn
  | .ack _ .other => some .warn
  | .unexpectedId _ _ => some .warn
  | .shortRead _ _ => some .warn
  | .checksumMismatch _ _ => some .warn
  | .frameOk => none
  | .gpsTime _ _ _ => none
  | .navSample _ _ => none
  | .txFrame _ => none
  | .crcResult _ => none

/-- Log an event at its level. -/
def Driver.logEvent (e : OutEvent) (d : Driver) : Driver :=
  match logLevel e with
  | some l => { d with log := d.log ++ [(l, .event e)] }
  | none => d

/-- What the host does with one output event: the timestamp (R139), the write (R133), the sinks (R138), the log (R140). -/
def Driver.react (d : Driver) (e : OutEvent) : Driver :=
  match e with
  | .frameOk => { d with lastData := some d.now, staleFrom := d.now }
  | .gpsTime w m t => { d with sink := d.sink ++ [.setGpsTime w m t] }
  | .navSample id f => { d with sink := d.sink ++ sampleCalls id f }
  | .txFrame bs => d.writeTransport bs
  | .ack st cls => d.logEvent (.ack st cls)
  | .unexpectedId id r => d.logEvent (.unexpectedId id r)
  | .shortRead ph n => d.logEvent (.shortRead ph n)
  | .checksumMismatch c r => d.logEvent (.checksumMismatch c r)
  | .crcResult _ => d

/-! ## Block and host together -/

/-- The block and the host (R6). -/
structure System where
  block : State
  driver : Driver
  deriving DecidableEq, Repr

/-- Steps of the block until its input is taken (at most `k`); a refused input stays at the port. -/
def runBlock : Nat → State → State
  | 0, s => s
  | k + 1, s =>
    match s.input with
    | [] => s
    | _ :: _ =>
      match step s with
      | .next t => runBlock k t
      | .fault _ => s
      | .refused _ => s

/-- Give the block one script line, and let the host take the events it emits, in order (R42). -/
def System.give (l : ScriptLine) (y : System) : System :=
  let bs := l.bytes y.block.params
  let b := runBlock bs.length (y.block.setInput (y.block.input ++ bs))
  { block := b, driver := (b.output.drop y.block.output.length).foldl Driver.react y.driver }

/-- What the host does on its own. -/
inductive HostAct where
  | give (l : ScriptLine)
  | openTransport (path : String) (answer : Option Handle)
  | configureTransport (answer : CallResult)
  | readTransport (asked minBytes : Nat) (got : List Byte)
  | closeTransport
  | wait (ms : Nat)
  | fail (e : HostError)
  | logStale
  | resetStale
  | run (on : Bool)
  deriving DecidableEq, Repr

/-- One act of the host. -/
def System.act (y : System) (a : HostAct) : System :=
  match a with
  | .give l => y.give l
  | .openTransport path r => { y with driver := y.driver.openTransport path r }
  | .configureTransport r => { y with driver := y.driver.configureTransport r }
  | .readTransport n m got => { y with driver := y.driver.readTransport n m got }
  | .closeTransport => { y with driver := y.driver.closeTransport }
  | .wait ms => { y with driver := { y.driver with now := y.driver.now + ms } }
  | .fail e => { y with driver := { y.driver with failed := some e } }
  | .logStale => { y with driver := { y.driver with log := y.driver.log ++ [(.warn, .host .staleLink)] } }
  | .resetStale => { y with driver := { y.driver with staleFrom := y.driver.now } }
  | .run on => { y with driver := { y.driver with running := on } }

/-- RESTART uid, lid, per, off (R66): STOP, a wait of T_GAP, START. -/
def restartActs (par : HostParams) (uid lid : U16) (per off : U32) : List HostAct :=
  [.give (.stop uid), .wait par.tGap, .give (.start lid per off)]

/-- Startup (R134), with the answers of `open` and `configure`. A failed open or configure aborts: the block is never
started. That a new start keeps the last-data timestamp and sets the staleness clock, whatever was accepted before it, is
the model's choice (log entry 18): the source's link state is "reset on restart" (90_conflicts.md C6), and R134 lists no
step that clears the timestamp. -/
def startupActs (d : Driver) (path : String) (opened : Option Handle) (configured : CallResult) : List HostAct :=
  match opened, configured with
  | none, _ => [.openTransport path none, .fail .transportOpenFailure]
  | some h, .err => [.openTransport path (some h), .configureTransport .err, .fail .transportConfigFailure]
  | some h, .ok =>
    [.openTransport path (some h), .configureTransport .ok, .give .reset, .wait d.par.tSettle,
     .give (.start d.telemetryId d.period d.offset), .resetStale, .run true]

/-- Whether the watchdog acts (R135): more than T_STALE since the staleness clock's start. -/
def Driver.stale (d : Driver) : Bool := d.par.tStale < d.now - d.staleFrom

/-- The watchdog's acts (R135), whatever phase the block is in; no RESET. -/
def watchdogActs (d : Driver) : List HostAct :=
  if d.stale then
    .logStale :: (restartActs d.par d.telemetryId d.telemetryId d.period d.offset ++ [.resetStale])
  else []

/-- Shutdown (R136): leave the loop, send stop-logging, feed nothing more. The id it stops is the model's choice (log entry
18). -/
def shutdownActs (d : Driver) : List HostAct := [.run false, .give (.stop d.telemetryId)]

/-- The host's acts, one after another. -/
def System.acts (y : System) (as : List HostAct) : System := as.foldl System.act y

/-- One turn of the host's loop: a read, which waits at most T_BYTE (R137); feed its result to the block (R133); then poll
termination and run the watchdog. `got` is what the line delivers while the read waits. A host whose loop does not run feeds
nothing (R136). -/
def System.turn (y : System) (asked minBytes : Nat) (got : List Byte) (waited : Nat) (terminate : Bool) : System :=
  if y.driver.running then
    let y1 := y.acts [.wait (min waited y.driver.par.tByte), .readTransport asked minBytes got]
    let y2 := y1.acts ((readScript asked (y.driver.readAnswer asked got)).map .give)
    if terminate then y2.acts (shutdownActs y2.driver) else y2.acts (watchdogActs y2.driver)
  else y

end Sys2Proof.Machine
end

