-- ==== Sys2Proof/Safety.lean ====
section
/-! DEFINITION. The terms in which claims are stated: the invariant of the states a run reaches, the receive state, the
event an accepted frame must give, and a run over received bytes. -/

namespace Sys2Proof.Machine

/-! ## The invariant -/

/-- What `cnt` holds in each phase (10_state.md R18). -/
def counterOk (ph : Phase) (cnt plen : U16) : Prop :=
  match ph with
  | .hunt0 => cnt = 0#16
  | .hunt1 => cnt = 0#16
  | .hunt2 => cnt = 0#16
  | .hdr => cnt.toNat < 25
  | .pay => cnt.toNat < plen.toNat
  | .cks => cnt.toNat < 4

/-- The states a run reaches: the buffers hold their canonical form within their index ranges (R31), `cnt` is as R18 says,
and while payload or checksum is collected `plen` is the header's length field (R19, R97). -/
structure State.Inv (s : State) : Prop where
  hdrWf : Memory.wf 25 s.hdrBuf = true
  payWf : Memory.wf 65535 s.payBuf = true
  crcWf : Memory.wf 4 s.rxCrc = true
  counter : counterOk s.phase s.cnt s.plen
  plenRead : s.phase = .pay ∨ s.phase = .cks → s.plen = s.hdrPlen

/-! ## Parts of a state -/

/-- The six components of R14. -/
structure RxState where
  phase : Phase
  cnt : U16
  plen : U16
  hdrBuf : Memory
  payBuf : Memory
  rxCrc : Memory
  deriving DecidableEq, Repr

/-- The receive state. -/
def State.rx (s : State) : RxState := ⟨s.phase, s.cnt, s.plen, s.hdrBuf, s.payBuf, s.rxCrc⟩

/-- Two buffers read alike at every index. -/
def Memory.same (m m' : Memory) : Prop := ∀ a, Memory.read m a = Memory.read m' a

/-- Every buffer reads as before, at every index. -/
def State.sameBuffers (s t : State) : Prop := ∀ n : BufName, Memory.same (s.buf n) (t.buf n)

/-- Every buffer reads as before but at index `i` of buffer `n`. -/
def State.sameBuffersBut (n : BufName) (i : Nat) (s t : State) : Prop :=
  ∀ (k : BufName) (a : Nat), ¬(k = n ∧ a = i) → Memory.read (t.buf k) a = Memory.read (s.buf k) a

/-! ## The event of an accepted frame -/

/-- NAVFIELDS (R106) of a payload that holds every field. -/
def State.exactNav (s : State) : NavFields where
  tstat := s.hdrTstat
  week := s.hdrWeek
  ms := s.hdrMs
  posStatus := le4 s.payBuf 0
  posType := le4 s.payBuf 4
  posX := le8 s.payBuf 8
  posY := le8 s.payBuf 16
  posZ := le8 s.payBuf 24
  perrX := le4 s.payBuf 32
  perrY := le4 s.payBuf 36
  perrZ := le4 s.payBuf 40
  velStatus := le4 s.payBuf 44
  velType := le4 s.payBuf 48
  velX := le8 s.payBuf 52
  velY := le8 s.payBuf 60
  velZ := le8 s.payBuf 68
  verrX := le4 s.payBuf 76
  verrY := le4 s.payBuf 80
  verrZ := le4 s.payBuf 84
  numSats := le1 s.payBuf 104

/-- R107: every field of the sample that lies within the payload, and every header field, is exact. Nothing is said of a
field that does not fit: its value is free. -/
structure exactWhereFits (s : State) (f : NavFields) : Prop where
  tstat : f.tstat = s.hdrTstat
  week : f.week = s.hdrWeek
  ms : f.ms = s.hdrMs
  posStatus : 4 ≤ s.plen.toNat → f.posStatus = le4 s.payBuf 0
  posType : 8 ≤ s.plen.toNat → f.posType = le4 s.payBuf 4
  posX : 16 ≤ s.plen.toNat → f.posX = le8 s.payBuf 8
  posY : 24 ≤ s.plen.toNat → f.posY = le8 s.payBuf 16
  posZ : 32 ≤ s.plen.toNat → f.posZ = le8 s.payBuf 24
  perrX : 36 ≤ s.plen.toNat → f.perrX = le4 s.payBuf 32
  perrY : 40 ≤ s.plen.toNat → f.perrY = le4 s.payBuf 36
  perrZ : 44 ≤ s.plen.toNat → f.perrZ = le4 s.payBuf 40
  velStatus : 48 ≤ s.plen.toNat → f.velStatus = le4 s.payBuf 44
  velType : 52 ≤ s.plen.toNat → f.velType = le4 s.payBuf 48
  velX : 60 ≤ s.plen.toNat → f.velX = le8 s.payBuf 52
  velY : 68 ≤ s.plen.toNat → f.velY = le8 s.payBuf 60
  velZ : 76 ≤ s.plen.toNat → f.velZ = le8 s.payBuf 68
  verrX : 80 ≤ s.plen.toNat → f.verrX = le4 s.payBuf 76
  verrY : 84 ≤ s.plen.toNat → f.verrY = le4 s.payBuf 80
  verrZ : 88 ≤ s.plen.toNat → f.verrZ = le4 s.payBuf 84
  numSats : 105 ≤ s.plen.toNat → f.numSats = le1 s.payBuf 104

/-- The decode event of an accepted frame, written as the if-chain of 42_decoder.md R99 on `msg_id` and `is_response`
(the machine dispatches by the match and mask table of R60). -/
def State.frameEvent (s : State) : OutEvent :=
  if s.msgId = 1#16 ∧ s.isResponse = true then .ack s.ackStatus (ackClass s.params s.ackStatus)
  else if (s.msgId = 244#16 ∨ s.msgId = 241#16) ∧ s.isResponse = false then .navSample s.msgId s.navFields
  else if s.msgId = 1#16 ∧ s.isResponse = false then .navSample 1#16 s.navFields
  else if (s.msgId = 244#16 ∨ s.msgId = 241#16) ∧ s.isResponse = true then
    match s.params.respNav with
    | .unexpected => .unexpectedId s.msgId true
    | .decode => .navSample s.msgId s.navFields
  else .unexpectedId s.msgId s.isResponse

/-! ## Kinds of instruction -/

/-- The operations that leave the receive state alone (41_sync_parser.md R95), and the two outbound frame kinds. -/
def transmits : Instr → Bool
  | .crcCompute _ | .encFrame _ _ | .encStopLog _ | .encStartLog _ _ _ | .cmdStopLog _ | .cmdStartLog _ _ _ => true
  | .logAck _ | .nav244 _ | .nav241 _ | .nav1Quirk _ | .resp244 _ | .resp241 _ | .unexpected _ _ _
  | .rxByteHunt0 _ | .rxByteHunt1 _ | .rxByteHunt2 _ | .rxByteHdr _ | .rxBytePay _ | .rxByteCks _
  | .rxTimeoutHunt | .rxTimeoutCollect | .reset => false

/-- The events R25 lets one input event emit; for a frame kind, the one decode event (R112). -/
def allowedEvents (s : State) (i : Instr) (evs : List OutEvent) : Prop :=
  match i with
  | .rxByteHunt0 _ => evs = []
  | .rxByteHunt1 _ => evs = []
  | .rxByteHunt2 _ => evs = []
  | .rxByteHdr _ => evs = []
  | .rxBytePay _ => evs = []
  | .rxByteCks _ =>
    if s.cnt = 3#16 then
      (∃ c r, c ≠ r ∧ evs = [.checksumMismatch c r]) ∨
      (∃ w m ts ev, evs = [.frameOk, .gpsTime w m ts, ev] ∧
        ((∃ st c, ev = .ack st c) ∨ (∃ id f, ev = .navSample id f) ∨ (∃ id r, ev = .unexpectedId id r)))
    else evs = []
  | .rxTimeoutHunt => evs = []
  | .rxTimeoutCollect => ∃ ph n, evs = [.shortRead ph n]
  | .crcCompute _ => ∃ v, evs = [.crcResult v]
  | .encFrame _ _ => ∃ bs, evs = [.txFrame bs]
  | .encStopLog _ => ∃ bs, evs = [.txFrame bs]
  | .encStartLog _ _ _ => ∃ bs, evs = [.txFrame bs]
  | .cmdStopLog _ => ∃ bs, evs = [.txFrame bs]
  | .cmdStartLog _ _ _ => ∃ bs, evs = [.txFrame bs]
  | .reset => evs = []
  | .logAck _ => ∃ st c, evs = [.ack st c]
  | .nav244 _ => ∃ f, evs = [.navSample 244#16 f]
  | .nav241 _ => ∃ f, evs = [.navSample 241#16 f]
  | .nav1Quirk _ => ∃ f, evs = [.navSample 1#16 f]
  | .resp244 _ => (∃ f, evs = [.navSample 244#16 f]) ∨ evs = [.unexpectedId 244#16 true]
  | .resp241 _ => (∃ f, evs = [.navSample 241#16 f]) ∨ evs = [.unexpectedId 241#16 true]
  | .unexpected id r _ => evs = [.unexpectedId id r]

/-! ## Runs -/

/-- `k` steps of the machine, stopping at the first fault or refusal. -/
def runSteps : Nat → State → Host.Outcome State Fault Refusal
  | 0, s => .next s
  | k + 1, s => andThen (step s) (runSteps k)

/-- The state with these received bytes, and nothing else, waiting at the port. -/
def State.receiving (s : State) (bs : List Byte) : State := s.setInput (rxScript bs)

/-- A byte for CKS that completes the checksum: the state after it is stored. -/
def State.withLastSum (s : State) (b : Byte) : State :=
  (s.setBuf .rxCrc (Memory.write s.rxCrc s.cnt.toNat b)).setCnt (s.cnt + 1#16)

end Sys2Proof.Machine
end

