-- ==== Sys2Proof/Certificates/Slice0/Obligations.lean ====
section
/-! DEFINITION. The statements for the provers. Each is about the machine, for every value of the parameters (they are a
field of the state). Nothing is stated about a program. -/

open Sys2Proof Sys2Proof.Machine

/-! ## Reset and the invariant -/

/-- 10_state.md R29: after reset the phase is HUNT0, `cnt` and `plen` are 0, and the output port is empty. (What the
buffers hold is open in R29, and nothing is said of it; the parameters and the free-value counter are the model's
choice, log entries 1 and 3. That the input port too is empty is the model's, log entry 4.) -/
def Obligations.ResetStateHasTheSpecifiedValues : Prop :=
  State.reset.phase = .hunt0 ∧ State.reset.cnt = 0#16 ∧ State.reset.plen = 0#16 ∧ State.reset.output = [] ∧
  State.reset.input = []

/-- 70_reset_and_hazards.md R143: RESET is op byte 0x06; in every state it sets HUNT0, `cnt` 0 and `plen` 0, emits nothing
(no SHORT_READ in the middle of a frame) and withdraws nothing. -/
def Obligations.ResetEventResetsTheParser : Prop :=
  ∀ s : State,
    (∀ ph rest, decodeEvent ph (0x06#8 :: rest) = .ok (.reset, rest)) ∧
    ∃ t, exec .reset s = .next t ∧ t.phase = .hunt0 ∧ t.cnt = 0#16 ∧ t.plen = 0#16 ∧ t.output = s.output ∧
      t.params = s.params ∧ t.input = s.input ∧ t.draws = s.draws

/-- The invariant holds right after reset. -/
def Obligations.InvariantHoldsAtReset : Prop := State.reset.Inv

/-- Every step from a state that meets the invariant keeps it: the buffers stay canonical within their ranges (R31),
`cnt` stays within the bounds of its phase (R18), and `plen` is the header's length field while it is used (R19). -/
def Obligations.EveryStepKeepsTheInvariant : Prop := ∀ s t : State, s.Inv → step s = .next t → t.Inv

/-- R12, R94, R129: in every state that meets the invariant, every well-formed input event of the state's phase, and every
frame kind, has a result, and no step faults. -/
def Obligations.NoInputStopsTheBlock : Prop :=
  ∀ s : State, s.Inv →
    (∀ i : Instr, i.wf = true → i.inPhase s.phase = true → ∃ t, exec i s = .next t) ∧ (∀ r, step s ≠ .fault r)

/-! ## The CRC engine -/

/-- 40_crc.md R68: CRC_STEP folds the byte into the low byte and makes eight one-bit right shifts. (The shift direction
is the spec's own decision, 92_eei_decisions.md D4.) -/
def Obligations.CrcStepFoldsTheByteAndShiftsEightTimes : Prop :=
  ∀ (poly acc : U32) (b : Byte),
    crcStep poly acc b =
      (fun a : U32 => if a.getLsbD 0 = true then (a >>> 1) ^^^ poly else a >>> 1)^[8] (acc ^^^ b.setWidth 32)

/-- R69: CRC(s) starts at P_CRC_INIT, folds the bytes in order and XORs P_CRC_XOROUT; so the empty sequence gives
`P_CRC_INIT ^ P_CRC_XOROUT` (R72). -/
def Obligations.CrcFoldsTheBytesInOrder : Prop :=
  (∀ (p : Params) (bs : List Byte), crc p bs = bs.foldl (crcStep p.crcPoly) p.crcInit ^^^ p.crcXorOut) ∧
  (∀ p : Params, crc p [] = p.crcInit ^^^ p.crcXorOut)

/-- R74, which the spec derives from R69: the concatenation law. -/
def Obligations.CrcFoldOfConcatenation : Prop :=
  ∀ (poly acc : U32) (a b : List Byte), crcFold poly acc (a ++ b) = crcFold poly (crcFold poly acc a) b

/-- R75, which the spec derives from R68: the residue law. Folding a register's own bytes clears it, so with
P_CRC_XOROUT = 0 a sequence followed by its CRC, and so every whole frame, folds to 0. -/
def Obligations.CrcResidueIsZero : Prop :=
  (∀ poly r : U32, crcFold poly r (leBytes 4 r.toNat) = 0#32) ∧
  (∀ (p : Params) (bs : List Byte), p.crcXorOut = 0#32 →
    crcFold p.crcPoly p.crcInit (bs ++ leBytes 4 (crc p bs).toNat) = 0#32) ∧
  (∀ (p : Params) (id : U16) (bs : List Byte), p.crcXorOut = 0#32 →
    crcFold p.crcPoly p.crcInit (frame p id bs) = 0#32)

/-- R76, which the spec derives from R68: the byte-table form, `T[0x80]` for every polynomial (so the CRC of the byte
0x80 gives the polynomial), and E0's `T[0x01]` and `T[0x80]`. -/
def Obligations.CrcStepByByteTable : Prop :=
  (∀ (poly acc : U32) (b : Byte),
    crcStep poly acc b = (acc >>> 8) ^^^ crcStep poly 0#32 ((acc ^^^ b.setWidth 32).setWidth 8)) ∧
  (∀ poly : U32, crcStep poly 0#32 0x80#8 = poly) ∧
  (∀ p : Params, p.crcInit = 0#32 → p.crcXorOut = 0#32 → crc p [0x80#8] = p.crcPoly) ∧
  crcStep paramsE0.crcPoly 0#32 0x01#8 = 0x77073096#32 ∧ crcStep paramsE0.crcPoly 0#32 0x80#8 = 0xEDB88320#32

/-- R73, where the spec derives it from R68: if bit 31 of the polynomial is 1, any change confined to one byte changes the
CRC, whatever stands before and after it. -/
def Obligations.CrcDetectsEverySingleByteChange : Prop :=
  ∀ (p : Params) (x y : List Byte) (b b' : Byte), p.crcPoly.getLsbD 31 = true → b ≠ b' →
    crc p (x ++ b :: y) ≠ crc p (x ++ b' :: y)

/-- R77: CRC_COMPUTE is op byte 0x02 with its length and bytes (the spec's decision D23), emits one CRC_RESULT and changes
nothing else; a single byte 0x00 gives 0 from an initial value 0, for any polynomial. -/
def Obligations.CrcComputeEmitsTheCrc : Prop :=
  (∀ (s : State) (bs : List Byte), bs.length ≤ 65535 →
    (∀ ph rest, decodeEvent ph (0x02#8 :: (leBytes 2 bs.length ++ bs ++ rest)) = .ok (.crcCompute bs, rest)) ∧
    exec (.crcCompute bs) s = .next { s with output := s.output ++ [.crcResult (crc s.params bs)] }) ∧
  (∀ poly : U32, crcFold poly 0#32 [0x00#8] = 0#32)

/-! ## Encoding -/

/-- 20_memory.md R34: `LE_n` and `le_n` are inverse to each other. -/
def Obligations.ByteConversionsAreInverse : Prop :=
  (∀ bs : List Byte, leBytes bs.length (leNat bs) = bs) ∧
  (∀ n v : Nat, v < 2 ^ (8 * n) → leNat (leBytes n v) = v)

/-- Decoding an encoded well-formed instruction, in a phase its row belongs to and with any bytes after it, gives it back
with every operand, for all 22 rows. (The encoding of the two outbound rows is the model's choice, log entry 12; the port
encoding is the spec's decision D23.) -/
def Obligations.DecodeOfEncodeIsTheInstruction : Prop :=
  ∀ (p : Params) (i : Instr) (ph : Phase) (rest : List Byte), i.wf = true → i.inPhase ph = true →
    decode p i.format ph (encode p i ++ rest) = .ok (i, rest)

/-- The other direction for input events (30_encoding.md R63): what the decoder takes from the port is the encoding of
the instruction it gives, no byte more or less, and the instruction is well-formed and belongs to the phase. -/
def Obligations.DecodedEventIsEncodedThatWay : Prop :=
  ∀ (p : Params) (ph : Phase) (bs rest : List Byte) (i : Instr), decodeEvent ph bs = .ok (i, rest) →
    bs = encode p i ++ rest ∧ i.wf = true ∧ i.format = .portOp ∧ i.inPhase ph = true

/-- R59 and R61 (the key is the spec's own notation, derived from R99): every key decodes to a well-formed frame kind
whose encoding is that key, no bit dropped. -/
def Obligations.EveryKeyHasOneFrameKind : Prop :=
  ∀ (p : Params) (k : Key),
    encode p (keyInstr k) = leBytes 3 k.toNat ∧ (keyInstr k).wf = true ∧ (keyInstr k).format = .frameKey

/-- 42_decoder.md R99 against the match and mask table of 30_encoding.md R60: the table's first matching row is the
if-chain's choice, for every key; the ignored type bits never matter. -/
def Obligations.KeyTableAgreesWithTheDispatchChain : Prop :=
  ∀ k : Key,
    keyInstr k =
      if keyId k = 1#16 ∧ keyResp k = true then .logAck (keyType k)
      else if keyId k = 244#16 ∧ keyResp k = false then .nav244 (keyType k)
      else if keyId k = 241#16 ∧ keyResp k = false then .nav241 (keyType k)
      else if keyId k = 1#16 ∧ keyResp k = false then .nav1Quirk (keyType k)
      else if keyId k = 244#16 ∧ keyResp k = true then .resp244 (keyType k)
      else if keyId k = 241#16 ∧ keyResp k = true then .resp241 (keyType k)
      else .unexpected (keyId k) (keyResp k) (keyType k)

/-- Words written out from the spec's encodings decode to the instruction they stand for, one or more for each family:
STOP 241 (V-E5's operand), START 244 (V-E2), CRC of three bytes, RX 44 in HUNT1, TMO in PAY, RESET, and three keys. -/
def Obligations.WrittenOutWordsDecode : Prop :=
  decodeEvent .hunt0 [0x04#8, 0xF1#8, 0x00#8] = .ok (.encStopLog 241#16, []) ∧
  decodeEvent .hdr [0x05#8, 0xF4#8, 0x00#8, 0x00#8, 0x00#8, 0x80#8, 0x3E#8, 0x00#8, 0x00#8, 0x00#8, 0x00#8] =
    .ok (.encStartLog 244#16 0x3E800000#32 0x00000000#32, []) ∧
  decodeEvent .cks [0x02#8, 0x03#8, 0x00#8, 0x31#8, 0x32#8, 0x33#8, 0x06#8] =
    .ok (.crcCompute [0x31#8, 0x32#8, 0x33#8], [0x06#8]) ∧
  decodeEvent .hunt1 [0x00#8, 0x44#8] = .ok (.rxByteHunt1 0x44#8, []) ∧
  decodeEvent .pay [0x01#8] = .ok (.rxTimeoutCollect, []) ∧
  decodeEvent .hunt2 [0x06#8] = .ok (.reset, []) ∧
  decodeKey [0x01#8, 0x00#8, 0x80#8] = .ok (.logAck 0#7, []) ∧
  decodeKey [0xF4#8, 0x00#8, 0x7F#8] = .ok (.nav244 0x7F#7, []) ∧
  decodeKey [0xF4#8, 0x01#8, 0x00#8] = .ok (.unexpected 500#16 false 0#7, [])

/-- 30_encoding.md R60: a command frame looped back decodes by the inbound rows, start-logging as NAV_1_QUIRK and
stop-logging as UNEXPECTED with id 36. -/
def Obligations.CommandFramesLoopBackByTheInboundRows : Prop :=
  ∀ p : Params,
    keyInstr (BitVec.ofNat 24 (leAt (txHeader p startLogId 24#16) 1 3)) = .nav1Quirk 0#7 ∧
    keyInstr (BitVec.ofNat 24 (leAt (txHeader p stopLogId 8#16) 1 3)) = .unexpected 36#16 false 0#7

/-! ## A step -/

/-- A step runs the event at the head of the port's bytes, with those bytes taken. -/
def Obligations.StepRunsTheDecodedEvent : Prop :=
  ∀ (s : State) (i : Instr) (rest : List Byte), i.wf = true → i.format = .portOp → i.inPhase s.phase = true →
    s.input = encode s.params i ++ rest → step s = exec i { s with input := rest }

/-- 60_exceptions.md R142: with no event waiting the block is idle and keeps its state. -/
def Obligations.IdleBlockKeepsItsState : Prop := ∀ s : State, s.input = [] → step s = .next s

/-- The step that accepts a frame runs the frame kind of the key in HdrBuf (R59, R88, R96): FRAME_OK, GPS_TIME, the
frame kind's meaning, then HUNT0 with `cnt` 0. (That a frame kind is an instruction of its own is the model's choice,
log entry 10.) -/
def Obligations.AcceptingStepRunsTheFrameKind : Prop :=
  ∀ (s : State) (b : Byte), s.cnt = 3#16 → (s.withLastSum b).computedCrc = (s.withLastSum b).receivedCrc →
    ∃ u, exec (keyInstr s.key)
        ((s.withLastSum b).emit [.frameOk, .gpsTime s.hdrWeek s.hdrMs s.hdrTstat]) = .next u ∧
      exec (.rxByteCks b) s = .next { u with phase := .hunt0, cnt := 0#16 }

/-- 93_implementation_defined.md U16 and U17, and R129: a step refuses for two reasons only, each of them an ill-formed
input: a reserved op byte, or bytes that are the beginning of no event. A complete event of op codes 0x00 to 0x06 is
never refused. -/
def Obligations.StepRefusesOnlyIllFormedInput : Prop :=
  (∀ (s : State) (op : Byte) (rest : List Byte), s.input = op :: rest → 7 ≤ op.toNat →
    step s = .refused (.reservedOp op)) ∧
  (∀ (s : State) (r : Refusal), step s = .refused r →
    ∃ op rest, s.input = op :: rest ∧
      ((7 ≤ op.toNat ∧ r = .reservedOp op) ∨
       (op.toNat ≤ 6 ∧ r = .truncatedEvent op ∧
        ¬∃ (i : Instr) (more : List Byte), i.wf = true ∧ i.format = .portOp ∧ s.input = encode s.params i ++ more)))

/-- What every step keeps: the parameters (10_state.md R26), the events already emitted, in order (20_memory.md R42); and
it takes from the port exactly one event's bytes, or is idle (R78, R91). -/
def Obligations.StepTakesOneEventAndKeepsThePorts : Prop :=
  ∀ s t : State, step s = .next t →
    t.params = s.params ∧ s.output <+: t.output ∧
    ((s.input = [] ∧ t = s) ∨
     ∃ i : Instr, i.wf = true ∧ i.format = .portOp ∧ i.inPhase s.phase = true ∧
       s.input = encode s.params i ++ t.input ∧ exec i { s with input := t.input } = .next t)

/-- 10_state.md R14: nothing but the receive state persists. What the block has emitted does not change what it does. -/
def Obligations.EmittedEventsDoNotFeedBack : Prop :=
  ∀ (s t : State) (out : List OutEvent), step s = .next t →
    ∃ evs, t.output = s.output ++ evs ∧ step { s with output := out } = .next { t with output := out ++ evs }

/-- 10_state.md R25 and R112: the events each input event, and each frame kind, emits. (That frame kinds and outbound kinds
are instructions of their own is the model's choice, log entries 10 and 12.) -/
def Obligations.EachEventEmitsWhatThePortAllows : Prop :=
  ∀ (s t : State) (i : Instr), exec i s = .next t → ∃ evs, t.output = s.output ++ evs ∧ allowedEvents s i evs

/-- 60_exceptions.md R126, which the spec derives from R86 to R90 and R112: no step emits two error events. -/
def Obligations.NoStepEmitsTwoErrors : Prop :=
  ∀ s t : State, step s = .next t → ∃ evs, t.output = s.output ++ evs ∧ (evs.filter isError).length ≤ 1

/-! ## Synchronizer and parser -/

/-- 41_sync_parser.md R79, R80, R81: RX_BYTE in the hunt phases; only `phase` changes, and `cnt` where the sync is
complete. -/
def Obligations.HuntPhasesFollowTheSyncBytes : Prop :=
  ∀ (s : State) (b : Byte) (rest : List Byte),
    decodeEvent .hunt0 (0x00#8 :: b :: rest) = .ok (.rxByteHunt0 b, rest) ∧
    exec (.rxByteHunt0 b) s = .next { s with phase := if b = 0xAA#8 then .hunt1 else .hunt0 } ∧
    decodeEvent .hunt1 (0x00#8 :: b :: rest) = .ok (.rxByteHunt1 b, rest) ∧
    exec (.rxByteHunt1 b) s =
      .next { s with phase := if b = 0x44#8 then .hunt2 else if b = 0xAA#8 then .hunt1 else .hunt0 } ∧
    decodeEvent .hunt2 (0x00#8 :: b :: rest) = .ok (.rxByteHunt2 b, rest) ∧
    exec (.rxByteHunt2 b) s =
      .next (if b = 0x12#8 then { s with phase := .hdr, cnt := 0#16 } else { s with phase := .hunt0 })

/-- R82: RX_TIMEOUT in a hunt phase changes nothing. (For HUNT1 and HUNT2 that is the spec's decision D3.) -/
def Obligations.TimeoutWhileHuntingIsSkipped : Prop :=
  ∀ (s : State) (ph : Phase) (rest : List Byte), ph = .hunt0 ∨ ph = .hunt1 ∨ ph = .hunt2 →
    decodeEvent ph (0x01#8 :: rest) = .ok (.rxTimeoutHunt, rest) ∧ exec .rxTimeoutHunt s = .next s

/-- R83 and R84: RX_BYTE in HDR stores the byte; the 25th sets `plen` from header offset 5 and goes to PAY, or to CKS if
`plen` is 0 (the spec's decision D20). -/
def Obligations.HeaderByteIsStoredAndCompletesTheHeader : Prop :=
  ∀ (s : State) (b : Byte) (rest : List Byte),
    decodeEvent .hdr (0x00#8 :: b :: rest) = .ok (.rxByteHdr b, rest) ∧
    (s.cnt.toNat < 24 →
      exec (.rxByteHdr b) s =
        .next { s with hdrBuf := Memory.write s.hdrBuf s.cnt.toNat b, cnt := s.cnt + 1#16 }) ∧
    (s.cnt.toNat = 24 →
      exec (.rxByteHdr b) s =
        .next { s with
          hdrBuf := Memory.write s.hdrBuf 24 b
          cnt := 0#16
          plen := le2 (Memory.write s.hdrBuf 24 b) 5
          phase := if le2 (Memory.write s.hdrBuf 24 b) 5 = 0#16 then .cks else .pay })

/-- R85: RX_BYTE in PAY stores the byte at `cnt`, for every index of PayBuf; the `plen`-th goes to CKS. -/
def Obligations.PayloadByteIsStoredAndCompletesThePayload : Prop :=
  ∀ (s : State) (b : Byte) (rest : List Byte),
    decodeEvent .pay (0x00#8 :: b :: rest) = .ok (.rxBytePay b, rest) ∧
    (s.cnt.toNat < 65535 →
      exec (.rxBytePay b) s =
        .next (if s.cnt + 1#16 = s.plen
          then { s with payBuf := Memory.write s.payBuf s.cnt.toNat b, cnt := 0#16, phase := .cks }
          else { s with payBuf := Memory.write s.payBuf s.cnt.toNat b, cnt := s.cnt + 1#16 }))

/-- R86: RX_BYTE in CKS stores the first three checksum bytes and emits nothing. -/
def Obligations.ChecksumByteIsStored : Prop :=
  ∀ (s : State) (b : Byte) (rest : List Byte),
    decodeEvent .cks (0x00#8 :: b :: rest) = .ok (.rxByteCks b, rest) ∧
    (s.cnt.toNat < 3 →
      exec (.rxByteCks b) s =
        .next { s with rxCrc := Memory.write s.rxCrc s.cnt.toNat b, cnt := s.cnt + 1#16 })

/-- R89, with the check of R87: with the fourth checksum byte, if the CRC over `AA 44 12`, the header and the payload
differs from the four bytes received, CHECKSUM_MISMATCH with both values is emitted and nothing else; the phase is
HUNT0. -/
def Obligations.MismatchedFrameIsRejected : Prop :=
  ∀ (s : State) (b : Byte) (computed received : U32), s.cnt = 3#16 →
    computed = crc s.params
      ([0xAA#8, 0x44#8, 0x12#8] ++ Memory.slice s.hdrBuf 0 25 ++ Memory.slice s.payBuf 0 s.plen.toNat) →
    received = le4 (Memory.write s.rxCrc 3 b) 0 → computed ≠ received →
    exec (.rxByteCks b) s =
      .next { s with
        rxCrc := Memory.write s.rxCrc 3 b
        phase := .hunt0
        cnt := 0#16
        output := s.output ++ [.checksumMismatch computed received] }

/-- R88, with R87, R96, R98 and R99 to R107: with the fourth checksum byte, if the CRC matches, FRAME_OK, GPS_TIME and the
one decode event of the if-chain of R99 are emitted, in this order, and the phase is HUNT0. The decode event is given
exactly. That rests on the spec's decisions D14 (time fields from the header), D15 (status offset), D16 (status codes), D17
(P_RESP_NAV) and D18 (short payloads), which log entry 16 follows. A field past the payload has the free value of its draw:
the model's choice, log entry 3. -/
def Obligations.MatchingFrameIsAcceptedAndDecoded : Prop :=
  ∀ (s : State) (b : Byte), s.cnt = 3#16 →
    crc s.params
      ([0xAA#8, 0x44#8, 0x12#8] ++ Memory.slice s.hdrBuf 0 25 ++ Memory.slice s.payBuf 0 s.plen.toNat) =
      le4 (Memory.write s.rxCrc 3 b) 0 →
    ∃ d, exec (.rxByteCks b) s =
      .next { s with
        rxCrc := Memory.write s.rxCrc 3 b
        phase := .hunt0
        cnt := 0#16
        draws := d
        output := s.output ++ [.frameOk, .gpsTime s.hdrWeek s.hdrMs s.hdrTstat, s.frameEvent] }

/-- R90: RX_TIMEOUT while collecting emits SHORT_READ with the phase and the count, and goes to HUNT0. -/
def Obligations.TimeoutWhileCollectingIsAShortRead : Prop :=
  ∀ (s : State) (ph : Phase) (rest : List Byte), ph = .hdr ∨ ph = .pay ∨ ph = .cks →
    decodeEvent ph (0x01#8 :: rest) = .ok (.rxTimeoutCollect, rest) ∧
    exec .rxTimeoutCollect s =
      .next { s with phase := .hunt0, cnt := 0#16, output := s.output ++ [.shortRead s.phase s.cnt] }

/-- R31, by the model's choice (log entry 5): a collecting RX_BYTE faults exactly where `cnt` is no index of its buffer,
which no state that meets the invariant has. -/
def Obligations.IndexOutsideTheBufferFaults : Prop :=
  ∀ (s : State) (b : Byte),
    (exec (.rxByteHdr b) s = .fault (.bufferIndex .hdrBuf s.cnt.toNat) ↔ 25 ≤ s.cnt.toNat) ∧
    (exec (.rxBytePay b) s = .fault (.bufferIndex .payBuf s.cnt.toNat) ↔ 65535 ≤ s.cnt.toNat) ∧
    (exec (.rxByteCks b) s = .fault (.bufferIndex .rxCrc s.cnt.toNat) ↔ 4 ≤ s.cnt.toNat)

/-- The frame of the three storing events (R83, R85, R86): every byte of every buffer but the one at `cnt` of the event's
own buffer reads as before, that one reads as the byte received, and parameters and input are unchanged. -/
def Obligations.StoringEventsChangeOneByte : Prop :=
  ∀ (s t : State) (i : Instr) (n : BufName) (b : Byte), s.Inv →
    (i = .rxByteHdr b ∧ n = .hdrBuf) ∨ (i = .rxBytePay b ∧ n = .payBuf) ∨ (i = .rxByteCks b ∧ n = .rxCrc) →
    exec i s = .next t →
    State.sameBuffersBut n s.cnt.toNat s t ∧ Memory.read (t.buf n) s.cnt.toNat = b ∧
    t.params = s.params ∧ t.input = s.input

/-- The frame of every other instruction: every byte of every buffer reads as before, and parameters and input are
unchanged (for RESET, R143 leaves the buffers open: that they are kept is the model's choice, log entry 2); `plen` changes
in RESET only, and `phase` and `cnt` only in the events that R79 to R82, R90 and R143 name. -/
def Obligations.OtherInstructionsChangeNoBuffer : Prop :=
  ∀ (s t : State) (i : Instr), exec i s = .next t →
    (∀ b, i ≠ .rxByteHdr b ∧ i ≠ .rxBytePay b ∧ i ≠ .rxByteCks b) →
    State.sameBuffers s t ∧ t.params = s.params ∧ t.input = s.input ∧ (i ≠ .reset → t.plen = s.plen) ∧
    ((∀ b, i ≠ .rxByteHunt0 b ∧ i ≠ .rxByteHunt1 b ∧ i ≠ .rxByteHunt2 b) → i ≠ .rxTimeoutCollect → i ≠ .reset →
      t.phase = s.phase ∧ t.cnt = s.cnt)

/-- R80 (R93, which the spec derives): a run of 0xAA bytes of any length keeps HUNT1, so that `44 12` after it completes
the sync, and nothing else of the state has changed. -/
def Obligations.RepeatedFirstSyncByteKeepsTheSync : Prop :=
  ∀ (s : State) (n : Nat), s.phase = .hunt1 →
    runSteps (n + 2) (s.receiving (List.replicate n 0xAA#8 ++ [0x44#8, 0x12#8])) =
      .next { s with input := [], phase := .hdr, cnt := 0#16 }

/-- 70_reset_and_hazards.md R149, which the spec derives from R80 and R81: in `AA 44 AA 44 12` the second `AA` is lost;
in `AA AA 44 12` the sync is found. -/
def Obligations.OverlappingSyncIsLost : Prop :=
  ∀ s : State, s.phase = .hunt0 →
    runSteps 5 (s.receiving [0xAA#8, 0x44#8, 0xAA#8, 0x44#8, 0x12#8]) = .next { s with input := [] } ∧
    runSteps 4 (s.receiving [0xAA#8, 0xAA#8, 0x44#8, 0x12#8]) =
      .next { s with input := [], phase := .hdr, cnt := 0#16 }

/-- R150, which the spec derives from R84, R85 and R90: once the sync is complete the parser consumes 25 bytes, as many
as the length field says (at most 65535), and 4 more, whatever they are, and hunts again with the last of them and not
before. -/
def Obligations.CandidateEndsAfterItsStatedLength : Prop :=
  ∀ (s : State) (bs : List Byte), s.Inv → s.phase = .hdr → s.cnt = 0#16 → 29 + leAt bs 5 2 ≤ bs.length →
    leAt bs 5 2 ≤ 65535 ∧
    (∃ t, runSteps (29 + leAt bs 5 2) (s.receiving bs) = .next t ∧ t.phase = .hunt0 ∧ t.cnt = 0#16 ∧
      t.input = rxScript (bs.drop (29 + leAt bs 5 2))) ∧
    (∀ k, k < 29 + leAt bs 5 2 →
      ∃ t, runSteps k (s.receiving bs) = .next t ∧ (t.phase = .hdr ∨ t.phase = .pay ∨ t.phase = .cks))

/-! ## Decoder -/

/-- 42_decoder.md R100 and R101 (with R107): a key that R100's match and mask select is LOG_ACK, which emits one ACK with
the status at payload offset 0 (any value if the payload is shorter than 4 bytes: a free value, log entry 3) and its class.
(The offset 0, the status codes and the treatment of a short payload are the spec's decisions D15, D16 and D18.) -/
def Obligations.LogAckEmitsStatusAndClass : Prop :=
  (∀ k : Key, k &&& 0x80FFFF#24 = 0x800001#24 → keyInstr k = .logAck (keyType k)) ∧
  ∀ (s : State) (t : BitVec 7),
    ∃ st d, exec (.logAck t) s =
        .next { s with
          draws := d
          output := s.output ++
            [.ack st (if st = s.params.ackOk then .ok else if st = s.params.ackCrcErr then .crcErr else .other)] } ∧
      (4 ≤ s.plen.toNat → st = le4 s.payBuf 0)

/-- R102, R103 and R106: with a payload of 105 bytes or more, NAV_244, NAV_241 and NAV_1_QUIRK emit one NAV_SAMPLE with
the id and every field at its offset. (That the time fields come from the header is the spec's decision D14.) -/
def Obligations.NavFramesEmitTheExactSample : Prop :=
  ∀ (s : State) (t : BitVec 7), 105 ≤ s.plen.toNat →
    (∃ d, exec (.nav244 t) s = .next { s with draws := d, output := s.output ++ [.navSample 244#16 s.exactNav] }) ∧
    (∃ d, exec (.nav241 t) s = .next { s with draws := d, output := s.output ++ [.navSample 241#16 s.exactNav] }) ∧
    (∃ d, exec (.nav1Quirk t) s = .next { s with draws := d, output := s.output ++ [.navSample 1#16 s.exactNav] })

/-- R102, R103, R106 and R107: the keys that R102 and R103 select are NAV_244, NAV_241 and NAV_1_QUIRK; whatever the
payload's length, the sample is emitted with the id, and every field that fits is exact (R107 is the spec's decision
D18; the other fields are free values, log entry 3). -/
def Obligations.NavFramesKeepTheFieldsThatFit : Prop :=
  (∀ k : Key,
    (k &&& 0x80FFFF#24 = 0x0000F4#24 → keyInstr k = .nav244 (keyType k)) ∧
    (k &&& 0x80FFFF#24 = 0x0000F1#24 → keyInstr k = .nav241 (keyType k)) ∧
    (k &&& 0x80FFFF#24 = 0x000001#24 → keyInstr k = .nav1Quirk (keyType k))) ∧
  ∀ (s : State) (t : BitVec 7) (i : Instr) (id : U16),
    (i = .nav244 t ∧ id = 244#16) ∨ (i = .nav241 t ∧ id = 241#16) ∨ (i = .nav1Quirk t ∧ id = 1#16) →
    ∃ f d, exec i s = .next { s with draws := d, output := s.output ++ [.navSample id f] } ∧ exactWhereFits s f

/-- R104: a response frame with a navigation id, by R104's keys, is reported as unexpected, or decoded, as P_RESP_NAV
says (the parameter is the spec's decision D17). Where it is decoded, every field that fits is exact, and the others are
free values (D18, log entry 3). -/
def Obligations.NavResponsesFollowTheParameter : Prop :=
  (∀ k : Key,
    (k &&& 0x80FFFF#24 = 0x8000F4#24 → keyInstr k = .resp244 (keyType k)) ∧
    (k &&& 0x80FFFF#24 = 0x8000F1#24 → keyInstr k = .resp241 (keyType k))) ∧
  ∀ (s : State) (t : BitVec 7) (i : Instr) (id : U16),
    (i = .resp244 t ∧ id = 244#16) ∨ (i = .resp241 t ∧ id = 241#16) →
    (s.params.respNav = .unexpected →
      exec i s = .next { s with output := s.output ++ [.unexpectedId id true] }) ∧
    (s.params.respNav = .decode →
      ∃ f d, exec i s = .next { s with draws := d, output := s.output ++ [.navSample id f] } ∧ exactWhereFits s f)

/-- R105: every key with another id, so every key that R100 to R104 do not match, is UNEXPECTED, which emits one
UNEXPECTED_ID with the key's id and response flag. (That the frame kind is an instruction of its own, apart from the
accepting step that emits GPS_TIME before it, and that the id comes from the key, are the model's choices, log entries
10 and 14.) -/
def Obligations.UnexpectedFramesAreReported : Prop :=
  (∀ k : Key, keyId k ≠ 1#16 → keyId k ≠ 244#16 → keyId k ≠ 241#16 →
    keyInstr k = .unexpected (keyId k) (keyResp k) (keyType k)) ∧
  ∀ (s : State) (id : U16) (r : Bool) (t : BitVec 7),
    exec (.unexpected id r t) s = .next { s with output := s.output ++ [.unexpectedId id r] }

/-- R108, which the spec derives from R100 and R106: payload bytes that no field covers change no event. Two states that
differ only in PayBuf, and there read alike at the indices below 88 and at 104, decode alike, for every frame kind; for
an acknowledgment it is enough that they read alike at the indices below 4. -/
def Obligations.UncoveredPayloadBytesChangeNothing : Prop :=
  (∀ (s t : State) (m : Memory) (k : Key), (∀ a, a < 88 ∨ a = 104 → Memory.read m a = Memory.read s.payBuf a) →
    exec (keyInstr k) s = .next t → exec (keyInstr k) { s with payBuf := m } = .next { t with payBuf := m }) ∧
  (∀ (s t : State) (m : Memory) (ty : BitVec 7), (∀ a, a < 4 → Memory.read m a = Memory.read s.payBuf a) →
    exec (.logAck ty) s = .next t → exec (.logAck ty) { s with payBuf := m } = .next { t with payBuf := m })

/-- R111, which the spec derives from R96 to R106: the frame kinds write none of the state of 10_state.md R14, and repeating
one on the same buffers, with the same free values (the draw counter set back, log entry 3), emits the same event again. -/
def Obligations.FrameKindsKeepTheReceiveState : Prop :=
  ∀ (s t : State) (k : Key), exec (keyInstr k) s = .next t →
    t.rx = s.rx ∧ t.params = s.params ∧ t.input = s.input ∧
    exec (keyInstr k) { t with draws := s.draws } =
      .next { t with output := t.output ++ t.output.drop s.output.length }

/-! ## Encoder -/

/-- 43_encoder.md R113 and R120: the 28 bytes of ENC_HEADER (its zero message type is the spec's decision D10), and the
header round trip, which the spec derives. -/
def Obligations.EncodedHeaderHasItsBytesAndRoundTrips : Prop :=
  ∀ (p : Params) (id n : U16),
    encHeader p id n =
      [0xAA#8, 0x44#8, 0x12#8, p.hdrLenByte, id.extractLsb' 0 8, id.extractLsb' 8 8, 0x00#8, p.hdrPort,
       n.extractLsb' 0 8, n.extractLsb' 8 8] ++ List.replicate 18 0x00#8 ∧
    leAt ((encHeader p id n).drop 3) 1 2 = id.toNat ∧ leAt ((encHeader p id n).drop 3) 5 2 = n.toNat

/-- R114: ENC_FRAME emits sync, header, payload and the CRC over them, 32 + len(s) bytes, and changes nothing else. -/
def Obligations.EncFrameEmitsTheWholeFrame : Prop :=
  ∀ (s : State) (id : U16) (bs h : List Byte), bs.length ≤ 65535 →
    h = encHeader s.params id (BitVec.ofNat 16 bs.length) ++ bs →
    (∀ ph rest, decodeEvent ph (0x03#8 :: (leBytes 2 id.toNat ++ leBytes 2 bs.length ++ bs ++ rest)) =
      .ok (.encFrame id bs, rest)) ∧
    exec (.encFrame id bs) s =
      .next { s with output := s.output ++ [.txFrame (h ++ leBytes 4 (crc s.params h).toNat)] } ∧
    (h ++ leBytes 4 (crc s.params h).toNat).length = 32 + bs.length

/-- R115 (with 30_encoding.md R57, and zero reserved bytes by the spec's decision D10): ENC_STOP_LOG sends the frame that
ENC_FRAME(36, ...) sends for the 8-byte payload, 40 bytes. That the outbound kind CMD_STOP_LOG of R60, as an instruction,
sends the same frame is the model's choice, log entry 12. -/
def Obligations.StopLogSendsItsCommand : Prop :=
  ∀ (s : State) (uid : U16) (pay : List Byte),
    pay = leBytes 4 s.params.cmdPort.toNat ++ leBytes 2 uid.toNat ++ [0x00#8, 0x00#8] →
    (∀ ph rest, decodeEvent ph (0x04#8 :: (leBytes 2 uid.toNat ++ rest)) = .ok (.encStopLog uid, rest)) ∧
    ∃ F : List Byte, F.length = 40 ∧
      exec (.encFrame 36#16 pay) s = .next { s with output := s.output ++ [.txFrame F] } ∧
      exec (.encStopLog uid) s = .next { s with output := s.output ++ [.txFrame F] } ∧
      exec (.cmdStopLog uid) s = .next { s with output := s.output ++ [.txFrame F] }

/-- R116 (with R58; that the trigger mode is always 2 is the spec's decision D26, R117, and zero reserved bytes its decision
D10): ENC_START_LOG sends the frame that ENC_FRAME(1, ...) sends for the 24-byte payload with trigger mode 2, 56 bytes. That
the outbound kind CMD_START_LOG of R60, as an instruction, sends the same frame is the model's choice, log entry 12. -/
def Obligations.StartLogSendsItsCommand : Prop :=
  ∀ (s : State) (lid : U16) (per off : U32) (pay : List Byte),
    pay = leBytes 4 s.params.cmdPort.toNat ++ leBytes 2 lid.toNat ++ [0x00#8, 0x00#8] ++
      [0x02#8, 0x00#8, 0x00#8, 0x00#8] ++ leBytes 4 per.toNat ++ leBytes 4 off.toNat ++
      [0x00#8, 0x00#8, 0x00#8, 0x00#8] →
    (∀ ph rest, decodeEvent ph (0x05#8 :: (leBytes 2 lid.toNat ++ leBytes 4 per.toNat ++ leBytes 4 off.toNat ++ rest)) =
      .ok (.encStartLog lid per off, rest)) ∧
    ∃ F : List Byte, F.length = 56 ∧
      exec (.encFrame 1#16 pay) s = .next { s with output := s.output ++ [.txFrame F] } ∧
      exec (.encStartLog lid per off) s = .next { s with output := s.output ++ [.txFrame F] } ∧
      exec (.cmdStartLog lid per off) s = .next { s with output := s.output ++ [.txFrame F] }

/-- 41_sync_parser.md R95: the CRC and encoder operations leave `phase`, `cnt`, `plen` and the three buffers unchanged,
and what any instruction then does to the receive state and emits is what it would have done without them. (The outbound
kinds CMD_START_LOG and CMD_STOP_LOG are covered too; that they are instructions is the model's choice, log entry 12.
That the fields past a payload are the same as well rests on log entry 3.) -/
def Obligations.CommandsDoNotDisturbReception : Prop :=
  ∀ (e : Instr) (s u : State), transmits e = true → exec e s = .next u →
    u.rx = s.rx ∧
    ∀ (i : Instr) (t : State), exec i s = .next t →
      ∃ v evs, exec i u = .next v ∧ v.rx = t.rx ∧ t.output = s.output ++ evs ∧ v.output = u.output ++ evs

/-- R121, which the spec derives from R113, R114 and R79 to R88: the frame that ENC_FRAME, ENC_STOP_LOG or ENC_START_LOG
sends, received by a block in HUNT0 with the same parameters, is accepted with its last byte, and the block is back in
HUNT0. -/
def Obligations.SentFramesAreAccepted : Prop :=
  ∀ (s u r : State) (e : Instr) (F : List Byte), e.wf = true →
    ((∃ id bs, e = .encFrame id bs) ∨ (∃ uid, e = .encStopLog uid) ∨ (∃ lid per off, e = .encStartLog lid per off)) →
    exec e s = .next u → u.output = s.output ++ [.txFrame F] →
    r.Inv → r.phase = .hunt0 → r.params = s.params →
    ∃ t w m ts ev, runSteps F.length (r.receiving F) = .next t ∧
      t.output = r.output ++ [.frameOk, .gpsTime w m ts, ev] ∧ t.phase = .hunt0 ∧ t.cnt = 0#16 ∧ t.input = []

/-- 10_state.md R29, 70_reset_and_hazards.md R146 and U15: what the buffers and `plen` hold when the parser hunts never
shows. Two hunting blocks that differ in nothing else take the same input to the same events, phases and counts, for
ever. So the reset contents the model names (log entry 2) have no effect on what the block emits. R146 and U15 except
the fields past the payload (R107, U14), which on the hardware can expose old contents. Here those fields are equal too,
by the model's choice, log entry 3: a free value depends on the draw counter alone, which the two blocks share. The
equality of those fields is therefore no claim about the hardware. -/
def Obligations.OldBufferContentsNeverShow : Prop :=
  ∀ (s s' : State), s.Inv → s'.Inv → s.phase = .hunt0 ∨ s.phase = .hunt1 ∨ s.phase = .hunt2 → s'.phase = s.phase →
    s'.params = s.params → s'.input = s.input → s'.output = s.output → s'.draws = s.draws →
    ∀ (k : Nat) (t : State), runSteps k s = .next t →
      ∃ t', runSteps k s' = .next t' ∧ t'.output = t.output ∧ t'.phase = t.phase ∧ t'.cnt = t.cnt ∧ t'.input = t.input

/-! ## The host contract (00_scope.md R5 leaves the host out of the hardware; log entry 8) -/

/-- 60_exceptions.md R139, and 70_reset_and_hazards.md R158, which the spec derives: of the output events FRAME_OK alone
sets the last-data timestamp and the staleness clock. -/
def Obligations.OnlyFrameOkHoldsTheWatchdogOff : Prop :=
  ∀ (d : Driver) (e : OutEvent),
    (d.react .frameOk).lastData = some d.now ∧ (d.react .frameOk).staleFrom = d.now ∧
    (e ≠ .frameOk → (d.react e).lastData = d.lastData ∧ (d.react e).staleFrom = d.staleFrom)

/-- R135 (the spec's decision D31 where no frame has yet been accepted): the watchdog's acts (warning, STOP, wait T_GAP,
START, staleness clock reset) leave the block's receive state as it was, in whatever phase it is, and the host has
logged one warning and written two frames more: the stop-logging and the start-logging command for its telemetry id. -/
def Obligations.WatchdogRestartKeepsTheSyncState : Prop :=
  ∀ y : System, y.block.input = [] → y.driver.stale = true →
    (y.acts (watchdogActs y.driver)).block.rx = y.block.rx ∧
    (y.acts (watchdogActs y.driver)).driver.staleFrom = y.driver.now + y.driver.par.tGap ∧
    (y.acts (watchdogActs y.driver)).driver.log = y.driver.log ++ [(.warn, .host .staleLink)] ∧
    (y.acts (watchdogActs y.driver)).driver.written = y.driver.written ++
      [frame y.block.params 36#16 (stopLogPayload y.block.params y.driver.telemetryId),
       frame y.block.params 1#16
         (startLogPayload y.block.params y.driver.telemetryId y.driver.period y.driver.offset)]

/-- R133 (with R122 and R141): a TX_FRAME makes the host call `write` once, with the whole frame, on the handle it holds,
and changes nothing else, whatever the call answers; no other event calls a transport operation. (That `write` without a
handle answers Err, and that the answer is otherwise a free value, are the model's choices, log entry 17.) -/
def Obligations.HostWritesEachFrameWithOneCall : Prop :=
  ∀ (d : Driver) (e : OutEvent),
    (∀ bs, e = .txFrame bs →
      ∃ r, d.react e = { d with calls := d.calls ++ [.write d.handle bs r] } ∧ (d.handle = none → r = .err)) ∧
    ((∀ bs, e ≠ .txFrame bs) → (d.react e).calls = d.calls)

/-- R133 (with 10_state.md R24 by the spec's decision D2, and R137): a read result becomes one RX_BYTE for each byte, in
order, and then one RX_TIMEOUT if it is short; each turn of a running loop calls `read_with_timeout` first, with T_BYTE as
the timeout, and the transport calls it makes later come after that one. (What `min_bytes` does the source leaves open, log
entry 17.) -/
def Obligations.ReadsBecomeReceiveEvents : Prop :=
  (∀ (p : Params) (asked : Nat) (got : List Byte), got.length ≤ asked →
    assemble p (readScript asked got) = rxScript got ++ if got.length < asked then [0x01#8] else []) ∧
  (∀ (y : System) (asked minBytes waited : Nat) (got : List Byte) (terminate : Bool) (h : Handle),
    y.driver.running = true → y.driver.handle = some h →
    y.driver.calls ++ [.read (some h) asked minBytes y.driver.par.tByte (got.take asked)] <+:
      (y.turn asked minBytes got waited terminate).driver.calls)
end

