-- ==== Sys2Proof/Laws/Decode.lean ====
section
/-! SUPPORT. What the event decoder can answer. -/

namespace Sys2Proof

theorem decodeEvent_cons (ph : Phase) (op : Byte) (bs : List Byte) :
    decodeEvent ph (op :: bs) =
      match decodeOperands ph op bs with
      | some r => .ok r
      | none => if op.toNat ≤ 6 then .error (.truncated op) else .error (.reservedOp op) := rfl

/-- The decoder gives an event exactly where the operands are there. -/
theorem decodeEvent_cons_ok {ph : Phase} {op : Byte} {bs rest : List Byte} {i : Instr} :
    decodeEvent ph (op :: bs) = .ok (i, rest) ↔ decodeOperands ph op bs = some (i, rest) := by
  rw [decodeEvent_cons]
  cases decodeOperands ph op bs with
  | some r => simp
  | none => simp only [reduceCtorEq, iff_false]; split <;> simp

/-- Without operands the decoder rejects by the op byte. -/
theorem decodeEvent_cons_error {ph : Phase} {op : Byte} {bs : List Byte} {e : PortReject}
    (h : decodeEvent ph (op :: bs) = .error e) :
    decodeOperands ph op bs = none ∧
      ((op.toNat ≤ 6 ∧ e = .truncated op) ∨ (7 ≤ op.toNat ∧ e = .reservedOp op)) := by
  rw [decodeEvent_cons] at h
  cases hd : decodeOperands ph op bs with
  | some r => rw [hd] at h; cases h
  | none =>
    rw [hd] at h
    refine ⟨rfl, ?_⟩
    by_cases ho : op.toNat ≤ 6
    · simp only [if_pos ho, Except.error.injEq] at h
      exact .inl ⟨ho, h.symm⟩
    · simp only [if_neg ho, Except.error.injEq] at h
      exact .inr ⟨by omega, h.symm⟩

/-- No event is waiting exactly where no byte is. -/
theorem decodeEvent_noEvent_iff {ph : Phase} {bs : List Byte} : decodeEvent ph bs = .error .noEvent ↔ bs = [] := by
  cases bs with
  | nil => simp [decodeEvent]
  | cons op rest =>
    simp only [reduceCtorEq, iff_false]
    intro h
    rcases (decodeEvent_cons_error h).2 with ⟨-, he⟩ | ⟨-, he⟩ <;> cases he

end Sys2Proof
end

