-- ==== Sys2Proof/Laws/Host.lean ====
section
/-! SUPPORT. The host side: what a transport call and an output event can do. -/

namespace Sys2Proof.Machine

/-! ### A transport call appends to the calls and changes nothing else -/

@[simp] theorem Driver.call_calls (c : TransportCall) (d : Driver) : (d.call c).calls = d.calls ++ [c] := rfl
@[simp] theorem Driver.call_par (c : TransportCall) (d : Driver) : (d.call c).par = d.par := rfl
@[simp] theorem Driver.call_handle (c : TransportCall) (d : Driver) : (d.call c).handle = d.handle := rfl
@[simp] theorem Driver.call_now (c : TransportCall) (d : Driver) : (d.call c).now = d.now := rfl
@[simp] theorem Driver.call_lastData (c : TransportCall) (d : Driver) : (d.call c).lastData = d.lastData := rfl
@[simp] theorem Driver.call_staleFrom (c : TransportCall) (d : Driver) : (d.call c).staleFrom = d.staleFrom := rfl
@[simp] theorem Driver.call_running (c : TransportCall) (d : Driver) : (d.call c).running = d.running := rfl
@[simp] theorem Driver.call_failed (c : TransportCall) (d : Driver) : (d.call c).failed = d.failed := rfl
@[simp] theorem Driver.call_sink (c : TransportCall) (d : Driver) : (d.call c).sink = d.sink := rfl
@[simp] theorem Driver.call_log (c : TransportCall) (d : Driver) : (d.call c).log = d.log := rfl

/-! ### The transport's operations -/

@[simp] theorem Driver.openTransport_handle (path : String) (r : Option Handle) (d : Driver) :
    (d.openTransport path r).handle = r := rfl

@[simp] theorem Driver.closeTransport_handle (d : Driver) : d.closeTransport.handle = none := rfl

/-- Without a handle a call answers Err. -/
theorem Driver.answer_none {d : Driver} (h : d.handle = none) (r : CallResult) : d.answer r = .err := by
  rw [Driver.answer, h]

/-- With a handle a read answers what has come, as far as it was asked for. -/
theorem Driver.readAnswer_some {d : Driver} {h : Handle} (hd : d.handle = some h) (asked : Nat) (got : List Byte) :
    d.readAnswer asked got = got.take asked := by
  rw [Driver.readAnswer, hd]

/-- A write adds its frame to the frames written, whatever it answers. -/
theorem Driver.writeTransport_written (bs : List Byte) (d : Driver) :
    (d.writeTransport bs).written = d.written ++ [bs] := by
  simp [Driver.writeTransport, Driver.written, TransportCall.writeBytes]

/-! ### The calls only grow -/

/-- Reacting to an event forgets no call. -/
theorem Driver.react_calls_prefix (d : Driver) (e : OutEvent) : d.calls <+: (d.react e).calls := by
  cases e with
  | txFrame bs => exact List.prefix_append _ _
  | ack st cls => cases cls <;> exact List.prefix_refl _
  | _ => exact List.prefix_refl _

theorem Driver.reacts_calls_prefix (es : List OutEvent) (d : Driver) :
    d.calls <+: (es.foldl Driver.react d).calls := by
  induction es generalizing d with
  | nil => exact List.prefix_refl _
  | cons e es ih => exact (d.react_calls_prefix e).trans (ih _)

/-- No act of the host forgets a call. -/
theorem System.act_calls_prefix (y : System) (a : HostAct) : y.driver.calls <+: (y.act a).driver.calls := by
  cases a with
  | give l => exact Driver.reacts_calls_prefix _ _
  | openTransport path r => exact List.prefix_append _ _
  | configureTransport r => exact List.prefix_append _ _
  | readTransport n m got => exact List.prefix_append _ _
  | closeTransport => exact List.prefix_append _ _
  | _ => exact List.prefix_refl _

theorem System.acts_calls_prefix (as : List HostAct) (y : System) : y.driver.calls <+: (y.acts as).driver.calls := by
  induction as generalizing y with
  | nil => exact List.prefix_refl _
  | cons a as ih => exact (y.act_calls_prefix a).trans (ih _)

end Sys2Proof.Machine
end

