-- ==== Sys2Proof/Laws/Memory.lean ====
section
/-! SUPPORT. The laws of a buffer: a read after a write, and that a write keeps the canonical form. -/

namespace Sys2Proof.Machine

theorem Memory.read_nil (i : Nat) : Memory.read [] i = Memory.blank := rfl

theorem Memory.read_pair (k : Nat) (v : Byte) (m : Memory) (i : Nat) :
    Memory.read ((k, v) :: m) i = if k = i then v else Memory.read m i := rfl

/-- Below its lower bound a canonical buffer lists nothing. -/
theorem Memory.read_below {lo cap : Nat} {m : Memory} (h : Memory.wfFrom lo cap m = true) {i : Nat} (hi : i < lo) :
    Memory.read m i = Memory.blank := by
  induction m generalizing lo with
  | nil => rfl
  | cons c rest ih =>
    obtain ⟨k, v⟩ := c
    simp only [Memory.wfFrom, Bool.and_eq_true, decide_eq_true_eq] at h
    obtain ⟨⟨⟨hlo, -⟩, -⟩, hrest⟩ := h
    rw [Memory.read_pair, if_neg (by omega)]
    exact ih hrest (by omega)

theorem Memory.wfFrom_mono {lo lo' cap : Nat} {m : Memory} (h : Memory.wfFrom lo cap m = true) (hl : lo' ≤ lo) :
    Memory.wfFrom lo' cap m = true := by
  cases m with
  | nil => rfl
  | cons c rest =>
    obtain ⟨k, v⟩ := c
    simp only [Memory.wfFrom, Bool.and_eq_true, decide_eq_true_eq] at h ⊢
    exact ⟨⟨⟨by omega, h.1.1.2⟩, h.1.2⟩, h.2⟩

theorem Memory.cons_wfFrom {lo cap i : Nat} {b : Byte} {m : Memory} (hlo : lo ≤ i) (hcap : i < cap)
    (h : Memory.wfFrom (i + 1) cap m = true) : Memory.wfFrom lo cap (Memory.cons i b m) = true := by
  unfold Memory.cons
  split
  · exact Memory.wfFrom_mono h (by omega)
  · next hb => simp [Memory.wfFrom, hlo, hcap, hb, h]

/-- A write inside the index range keeps the canonical form. -/
theorem Memory.write_wfFrom {lo cap i : Nat} {m : Memory} (h : Memory.wfFrom lo cap m = true) (hlo : lo ≤ i)
    (hcap : i < cap) (b : Byte) : Memory.wfFrom lo cap (Memory.write m i b) = true := by
  induction m generalizing lo with
  | nil => exact Memory.cons_wfFrom hlo hcap rfl
  | cons c rest ih =>
    obtain ⟨k, v⟩ := c
    have h0 := h
    simp only [Memory.wfFrom, Bool.and_eq_true, decide_eq_true_eq] at h
    obtain ⟨⟨⟨hk, hkc⟩, hv⟩, hrest⟩ := h
    unfold Memory.write
    split
    · next hki =>
      simp only [Memory.wfFrom, Bool.and_eq_true, decide_eq_true_eq]
      exact ⟨⟨⟨hk, hkc⟩, hv⟩, ih hrest (by omega)⟩
    · split
      · next hki => exact Memory.cons_wfFrom hlo hcap (hki ▸ hrest)
      · next h1 h2 =>
        refine Memory.cons_wfFrom hlo hcap ?_
        simp only [Memory.wfFrom, Bool.and_eq_true, decide_eq_true_eq]
        exact ⟨⟨⟨by omega, hkc⟩, hv⟩, hrest⟩

/-- Every buffer write keeps the canonical form. -/
theorem Memory.write_wf {cap i : Nat} {m : Memory} (h : Memory.wf cap m = true) (hcap : i < cap) (b : Byte) :
    Memory.wf cap (Memory.write m i b) = true :=
  Memory.write_wfFrom h (Nat.zero_le i) hcap b

theorem Memory.read_cons_ne {i j : Nat} (hij : j ≠ i) (b : Byte) (m : Memory) :
    Memory.read (Memory.cons i b m) j = Memory.read m j := by
  unfold Memory.cons
  split
  · rfl
  · rw [Memory.read_pair, if_neg (Ne.symm hij)]

/-- A write leaves every other index alone (in any buffer). -/
theorem Memory.read_write_ne {i j : Nat} (hij : j ≠ i) (m : Memory) (b : Byte) :
    Memory.read (Memory.write m i b) j = Memory.read m j := by
  induction m with
  | nil => exact Memory.read_cons_ne hij b []
  | cons c rest ih =>
    obtain ⟨k, v⟩ := c
    unfold Memory.write
    split
    · simp only [Memory.read_pair, ih]
    · split
      · next hki => rw [Memory.read_cons_ne hij, Memory.read_pair, if_neg (by omega)]
      · exact Memory.read_cons_ne hij b _

theorem Memory.read_cons_self {lo cap i : Nat} {b : Byte} {m : Memory} (h : Memory.wfFrom lo cap m = true)
    (hi : i < lo) : Memory.read (Memory.cons i b m) i = b := by
  unfold Memory.cons
  split
  · next hb => rw [Memory.read_below h hi, hb]
  · rw [Memory.read_pair, if_pos rfl]

theorem Memory.read_write_self_from {lo cap i : Nat} {m : Memory} (h : Memory.wfFrom lo cap m = true) (b : Byte) :
    Memory.read (Memory.write m i b) i = b := by
  induction m generalizing lo with
  | nil => exact Memory.read_cons_self (lo := i + 1) (cap := 0) rfl (by omega)
  | cons c rest ih =>
    obtain ⟨k, v⟩ := c
    have h0 := h
    simp only [Memory.wfFrom, Bool.and_eq_true, decide_eq_true_eq] at h
    obtain ⟨⟨⟨hk, hkc⟩, hv⟩, hrest⟩ := h
    unfold Memory.write
    split
    · next hki => rw [Memory.read_pair, if_neg (by omega)]; exact ih hrest
    · split
      · next hki => exact Memory.read_cons_self hrest (by omega)
      · next h1 h2 =>
        refine Memory.read_cons_self (lo := k) (cap := cap) ?_ (by omega)
        simp only [Memory.wfFrom, Bool.and_eq_true, decide_eq_true_eq]
        exact ⟨⟨⟨Nat.le_refl k, hkc⟩, hv⟩, hrest⟩

/-- A read after a write to the same index gives the byte written. -/
theorem Memory.read_write_self {cap i : Nat} {m : Memory} (h : Memory.wf cap m = true) (b : Byte) :
    Memory.read (Memory.write m i b) i = b :=
  Memory.read_write_self_from h b

@[simp] theorem Memory.slice_length (m : Memory) (o n : Nat) : (Memory.slice m o n).length = n := by
  induction n generalizing o with
  | zero => rfl
  | succ n ih => simp [Memory.slice, ih]

/-- A slice depends only on the bytes of its range. -/
theorem Memory.slice_congr {m m' : Memory} {o n : Nat}
    (h : ∀ a, o ≤ a → a < o + n → Memory.read m a = Memory.read m' a) : Memory.slice m o n = Memory.slice m' o n := by
  induction n generalizing o with
  | zero => rfl
  | succ n ih =>
    simp only [Memory.slice]
    rw [h o (Nat.le_refl o) (by omega), ih fun a h1 h2 => h a (by omega) (by omega)]

end Sys2Proof.Machine
end

