-- ==== Sys2Proof/Laws/State.lean ====
section
/-! SUPPORT. One lemma for each field of State and each update of it, so that no proof unfolds a record update. -/

namespace Sys2Proof.Machine

/-! ### setPhase -/

@[simp] theorem State.setPhase_params (ph : Phase) (s : State) : (s.setPhase ph).params = s.params := rfl
@[simp] theorem State.setPhase_phase (ph : Phase) (s : State) : (s.setPhase ph).phase = ph := rfl
@[simp] theorem State.setPhase_cnt (ph : Phase) (s : State) : (s.setPhase ph).cnt = s.cnt := rfl
@[simp] theorem State.setPhase_plen (ph : Phase) (s : State) : (s.setPhase ph).plen = s.plen := rfl
@[simp] theorem State.setPhase_hdrBuf (ph : Phase) (s : State) : (s.setPhase ph).hdrBuf = s.hdrBuf := rfl
@[simp] theorem State.setPhase_payBuf (ph : Phase) (s : State) : (s.setPhase ph).payBuf = s.payBuf := rfl
@[simp] theorem State.setPhase_rxCrc (ph : Phase) (s : State) : (s.setPhase ph).rxCrc = s.rxCrc := rfl
@[simp] theorem State.setPhase_input (ph : Phase) (s : State) : (s.setPhase ph).input = s.input := rfl
@[simp] theorem State.setPhase_output (ph : Phase) (s : State) : (s.setPhase ph).output = s.output := rfl
@[simp] theorem State.setPhase_draws (ph : Phase) (s : State) : (s.setPhase ph).draws = s.draws := rfl
@[simp] theorem State.setPhase_buf (ph : Phase) (s : State) (k : BufName) : (s.setPhase ph).buf k = s.buf k := by
  cases k <;> rfl

/-! ### setCnt -/

@[simp] theorem State.setCnt_params (n : U16) (s : State) : (s.setCnt n).params = s.params := rfl
@[simp] theorem State.setCnt_phase (n : U16) (s : State) : (s.setCnt n).phase = s.phase := rfl
@[simp] theorem State.setCnt_cnt (n : U16) (s : State) : (s.setCnt n).cnt = n := rfl
@[simp] theorem State.setCnt_plen (n : U16) (s : State) : (s.setCnt n).plen = s.plen := rfl
@[simp] theorem State.setCnt_hdrBuf (n : U16) (s : State) : (s.setCnt n).hdrBuf = s.hdrBuf := rfl
@[simp] theorem State.setCnt_payBuf (n : U16) (s : State) : (s.setCnt n).payBuf = s.payBuf := rfl
@[simp] theorem State.setCnt_rxCrc (n : U16) (s : State) : (s.setCnt n).rxCrc = s.rxCrc := rfl
@[simp] theorem State.setCnt_input (n : U16) (s : State) : (s.setCnt n).input = s.input := rfl
@[simp] theorem State.setCnt_output (n : U16) (s : State) : (s.setCnt n).output = s.output := rfl
@[simp] theorem State.setCnt_draws (n : U16) (s : State) : (s.setCnt n).draws = s.draws := rfl
@[simp] theorem State.setCnt_buf (n : U16) (s : State) (k : BufName) : (s.setCnt n).buf k = s.buf k := by
  cases k <;> rfl

/-! ### setPlen -/

@[simp] theorem State.setPlen_params (n : U16) (s : State) : (s.setPlen n).params = s.params := rfl
@[simp] theorem State.setPlen_phase (n : U16) (s : State) : (s.setPlen n).phase = s.phase := rfl
@[simp] theorem State.setPlen_cnt (n : U16) (s : State) : (s.setPlen n).cnt = s.cnt := rfl
@[simp] theorem State.setPlen_plen (n : U16) (s : State) : (s.setPlen n).plen = n := rfl
@[simp] theorem State.setPlen_hdrBuf (n : U16) (s : State) : (s.setPlen n).hdrBuf = s.hdrBuf := rfl
@[simp] theorem State.setPlen_payBuf (n : U16) (s : State) : (s.setPlen n).payBuf = s.payBuf := rfl
@[simp] theorem State.setPlen_rxCrc (n : U16) (s : State) : (s.setPlen n).rxCrc = s.rxCrc := rfl
@[simp] theorem State.setPlen_input (n : U16) (s : State) : (s.setPlen n).input = s.input := rfl
@[simp] theorem State.setPlen_output (n : U16) (s : State) : (s.setPlen n).output = s.output := rfl
@[simp] theorem State.setPlen_draws (n : U16) (s : State) : (s.setPlen n).draws = s.draws := rfl
@[simp] theorem State.setPlen_buf (n : U16) (s : State) (k : BufName) : (s.setPlen n).buf k = s.buf k := by
  cases k <;> rfl

/-! ### setInput -/

@[simp] theorem State.setInput_params (bs : List Byte) (s : State) : (s.setInput bs).params = s.params := rfl
@[simp] theorem State.setInput_phase (bs : List Byte) (s : State) : (s.setInput bs).phase = s.phase := rfl
@[simp] theorem State.setInput_cnt (bs : List Byte) (s : State) : (s.setInput bs).cnt = s.cnt := rfl
@[simp] theorem State.setInput_plen (bs : List Byte) (s : State) : (s.setInput bs).plen = s.plen := rfl
@[simp] theorem State.setInput_hdrBuf (bs : List Byte) (s : State) : (s.setInput bs).hdrBuf = s.hdrBuf := rfl
@[simp] theorem State.setInput_payBuf (bs : List Byte) (s : State) : (s.setInput bs).payBuf = s.payBuf := rfl
@[simp] theorem State.setInput_rxCrc (bs : List Byte) (s : State) : (s.setInput bs).rxCrc = s.rxCrc := rfl
@[simp] theorem State.setInput_input (bs : List Byte) (s : State) : (s.setInput bs).input = bs := rfl
@[simp] theorem State.setInput_output (bs : List Byte) (s : State) : (s.setInput bs).output = s.output := rfl
@[simp] theorem State.setInput_draws (bs : List Byte) (s : State) : (s.setInput bs).draws = s.draws := rfl
@[simp] theorem State.setInput_buf (bs : List Byte) (s : State) (k : BufName) : (s.setInput bs).buf k = s.buf k := by
  cases k <;> rfl

/-! ### emit -/

@[simp] theorem State.emit_params (evs : List OutEvent) (s : State) : (s.emit evs).params = s.params := rfl
@[simp] theorem State.emit_phase (evs : List OutEvent) (s : State) : (s.emit evs).phase = s.phase := rfl
@[simp] theorem State.emit_cnt (evs : List OutEvent) (s : State) : (s.emit evs).cnt = s.cnt := rfl
@[simp] theorem State.emit_plen (evs : List OutEvent) (s : State) : (s.emit evs).plen = s.plen := rfl
@[simp] theorem State.emit_hdrBuf (evs : List OutEvent) (s : State) : (s.emit evs).hdrBuf = s.hdrBuf := rfl
@[simp] theorem State.emit_payBuf (evs : List OutEvent) (s : State) : (s.emit evs).payBuf = s.payBuf := rfl
@[simp] theorem State.emit_rxCrc (evs : List OutEvent) (s : State) : (s.emit evs).rxCrc = s.rxCrc := rfl
@[simp] theorem State.emit_input (evs : List OutEvent) (s : State) : (s.emit evs).input = s.input := rfl
@[simp] theorem State.emit_output (evs : List OutEvent) (s : State) : (s.emit evs).output = s.output ++ evs := rfl
@[simp] theorem State.emit_draws (evs : List OutEvent) (s : State) : (s.emit evs).draws = s.draws := rfl
@[simp] theorem State.emit_buf (evs : List OutEvent) (s : State) (k : BufName) : (s.emit evs).buf k = s.buf k := by
  cases k <;> rfl

/-! ### addDraws -/

@[simp] theorem State.addDraws_params (n : Nat) (s : State) : (s.addDraws n).params = s.params := rfl
@[simp] theorem State.addDraws_phase (n : Nat) (s : State) : (s.addDraws n).phase = s.phase := rfl
@[simp] theorem State.addDraws_cnt (n : Nat) (s : State) : (s.addDraws n).cnt = s.cnt := rfl
@[simp] theorem State.addDraws_plen (n : Nat) (s : State) : (s.addDraws n).plen = s.plen := rfl
@[simp] theorem State.addDraws_hdrBuf (n : Nat) (s : State) : (s.addDraws n).hdrBuf = s.hdrBuf := rfl
@[simp] theorem State.addDraws_payBuf (n : Nat) (s : State) : (s.addDraws n).payBuf = s.payBuf := rfl
@[simp] theorem State.addDraws_rxCrc (n : Nat) (s : State) : (s.addDraws n).rxCrc = s.rxCrc := rfl
@[simp] theorem State.addDraws_input (n : Nat) (s : State) : (s.addDraws n).input = s.input := rfl
@[simp] theorem State.addDraws_output (n : Nat) (s : State) : (s.addDraws n).output = s.output := rfl
@[simp] theorem State.addDraws_draws (n : Nat) (s : State) : (s.addDraws n).draws = s.draws + n := rfl
@[simp] theorem State.addDraws_buf (n : Nat) (s : State) (k : BufName) : (s.addDraws n).buf k = s.buf k := by
  cases k <;> rfl

/-! ### hunt: `phase <- HUNT0; cnt <- 0` -/

@[simp] theorem State.hunt_params (s : State) : s.hunt.params = s.params := rfl
@[simp] theorem State.hunt_phase (s : State) : s.hunt.phase = .hunt0 := rfl
@[simp] theorem State.hunt_cnt (s : State) : s.hunt.cnt = 0#16 := rfl
@[simp] theorem State.hunt_plen (s : State) : s.hunt.plen = s.plen := rfl
@[simp] theorem State.hunt_hdrBuf (s : State) : s.hunt.hdrBuf = s.hdrBuf := rfl
@[simp] theorem State.hunt_payBuf (s : State) : s.hunt.payBuf = s.payBuf := rfl
@[simp] theorem State.hunt_rxCrc (s : State) : s.hunt.rxCrc = s.rxCrc := rfl
@[simp] theorem State.hunt_input (s : State) : s.hunt.input = s.input := rfl
@[simp] theorem State.hunt_output (s : State) : s.hunt.output = s.output := rfl
@[simp] theorem State.hunt_draws (s : State) : s.hunt.draws = s.draws := rfl
@[simp] theorem State.hunt_buf (s : State) (k : BufName) : s.hunt.buf k = s.buf k := by
  cases k <;> rfl

/-! ### resync -/

@[simp] theorem State.resync_params (ev : OutEvent) (s : State) : (s.resync ev).params = s.params := rfl
@[simp] theorem State.resync_phase (ev : OutEvent) (s : State) : (s.resync ev).phase = .hunt0 := rfl
@[simp] theorem State.resync_cnt (ev : OutEvent) (s : State) : (s.resync ev).cnt = 0#16 := rfl
@[simp] theorem State.resync_plen (ev : OutEvent) (s : State) : (s.resync ev).plen = s.plen := rfl
@[simp] theorem State.resync_hdrBuf (ev : OutEvent) (s : State) : (s.resync ev).hdrBuf = s.hdrBuf := rfl
@[simp] theorem State.resync_payBuf (ev : OutEvent) (s : State) : (s.resync ev).payBuf = s.payBuf := rfl
@[simp] theorem State.resync_rxCrc (ev : OutEvent) (s : State) : (s.resync ev).rxCrc = s.rxCrc := rfl
@[simp] theorem State.resync_input (ev : OutEvent) (s : State) : (s.resync ev).input = s.input := rfl
@[simp] theorem State.resync_output (ev : OutEvent) (s : State) : (s.resync ev).output = s.output ++ [ev] := rfl
@[simp] theorem State.resync_draws (ev : OutEvent) (s : State) : (s.resync ev).draws = s.draws := rfl
@[simp] theorem State.resync_buf (ev : OutEvent) (s : State) (k : BufName) : (s.resync ev).buf k = s.buf k := by
  cases k <;> rfl

/-! ### setBuf: one buffer -/

@[simp] theorem State.setBuf_params (n : BufName) (m : Memory) (s : State) : (s.setBuf n m).params = s.params := by
  cases n <;> rfl
@[simp] theorem State.setBuf_phase (n : BufName) (m : Memory) (s : State) : (s.setBuf n m).phase = s.phase := by
  cases n <;> rfl
@[simp] theorem State.setBuf_cnt (n : BufName) (m : Memory) (s : State) : (s.setBuf n m).cnt = s.cnt := by
  cases n <;> rfl
@[simp] theorem State.setBuf_plen (n : BufName) (m : Memory) (s : State) : (s.setBuf n m).plen = s.plen := by
  cases n <;> rfl
@[simp] theorem State.setBuf_hdrBuf_hdrBuf (m : Memory) (s : State) : (s.setBuf .hdrBuf m).hdrBuf = m := rfl
@[simp] theorem State.setBuf_payBuf_hdrBuf (m : Memory) (s : State) : (s.setBuf .payBuf m).hdrBuf = s.hdrBuf := rfl
@[simp] theorem State.setBuf_rxCrc_hdrBuf (m : Memory) (s : State) : (s.setBuf .rxCrc m).hdrBuf = s.hdrBuf := rfl
@[simp] theorem State.setBuf_hdrBuf_payBuf (m : Memory) (s : State) : (s.setBuf .hdrBuf m).payBuf = s.payBuf := rfl
@[simp] theorem State.setBuf_payBuf_payBuf (m : Memory) (s : State) : (s.setBuf .payBuf m).payBuf = m := rfl
@[simp] theorem State.setBuf_rxCrc_payBuf (m : Memory) (s : State) : (s.setBuf .rxCrc m).payBuf = s.payBuf := rfl
@[simp] theorem State.setBuf_hdrBuf_rxCrc (m : Memory) (s : State) : (s.setBuf .hdrBuf m).rxCrc = s.rxCrc := rfl
@[simp] theorem State.setBuf_payBuf_rxCrc (m : Memory) (s : State) : (s.setBuf .payBuf m).rxCrc = s.rxCrc := rfl
@[simp] theorem State.setBuf_rxCrc_rxCrc (m : Memory) (s : State) : (s.setBuf .rxCrc m).rxCrc = m := rfl
@[simp] theorem State.setBuf_input (n : BufName) (m : Memory) (s : State) : (s.setBuf n m).input = s.input := by
  cases n <;> rfl
@[simp] theorem State.setBuf_output (n : BufName) (m : Memory) (s : State) : (s.setBuf n m).output = s.output := by
  cases n <;> rfl
@[simp] theorem State.setBuf_draws (n : BufName) (m : Memory) (s : State) : (s.setBuf n m).draws = s.draws := by
  cases n <;> rfl
@[simp] theorem State.setBuf_buf_self (n : BufName) (m : Memory) (s : State) : (s.setBuf n m).buf n = m := by
  cases n <;> rfl
theorem State.setBuf_buf_ne (n k : BufName) (m : Memory) (s : State) (h : k ≠ n) : (s.setBuf n m).buf k = s.buf k := by
  cases n <;> cases k <;> first | rfl | exact absurd rfl h
@[simp] theorem State.buf_hdrBuf (s : State) : s.buf .hdrBuf = s.hdrBuf := rfl
@[simp] theorem State.buf_payBuf (s : State) : s.buf .payBuf = s.payBuf := rfl
@[simp] theorem State.buf_rxCrc (s : State) : s.buf .rxCrc = s.rxCrc := rfl

/-! ### What the decoder reads does not change when an event is emitted -/

@[simp] theorem State.emit_key (evs : List OutEvent) (s : State) : (s.emit evs).key = s.key := rfl
@[simp] theorem State.emit_navFields (evs : List OutEvent) (s : State) : (s.emit evs).navFields = s.navFields := rfl
@[simp] theorem State.emit_ackStatus (evs : List OutEvent) (s : State) : (s.emit evs).ackStatus = s.ackStatus := rfl
@[simp] theorem State.emit_gpsTimeEvent (evs : List OutEvent) (s : State) :
    (s.emit evs).gpsTimeEvent = s.gpsTimeEvent := rfl
@[simp] theorem State.emit_emit (e f : List OutEvent) (s : State) : (s.emit e).emit f = s.emit (e ++ f) := by
  simp [State.emit]

end Sys2Proof.Machine
end

