-- ==== Sys2Proof/Laws/Ops.lean ====
section
/-! SUPPORT. One lemma for each shared operation that says everything it can do. -/

namespace Sys2Proof.Machine

@[simp] theorem andThen_next (t : State) (f : State → Host.Outcome State Fault Refusal) :
    andThen (.next t) f = f t := rfl

@[simp] theorem andThen_fault (r : Fault) (f : State → Host.Outcome State Fault Refusal) :
    andThen (.fault r) f = .fault r := rfl

/-- A composition that answers a next state answered one in both parts. -/
theorem andThen_eq_next {o : Host.Outcome State Fault Refusal} {f : State → Host.Outcome State Fault Refusal}
    {t : State} (h : andThen o f = .next t) : ∃ u, o = .next u ∧ f u = .next t := by
  cases o with
  | next u => exact ⟨u, rfl, h⟩
  | fault r => cases h
  | refused r => cases h

/-- Storing a byte inside the buffer. -/
theorem storeByte_next {n : BufName} {s : State} (h : s.cnt.toNat < n.cap) (b : Byte) :
    storeByte n b s = .next ((s.setBuf n (Memory.write (s.buf n) s.cnt.toNat b)).setCnt (s.cnt + 1#16)) :=
  if_pos h

/-- Storing a byte outside the buffer. -/
theorem storeByte_fault {n : BufName} {s : State} (h : ¬ s.cnt.toNat < n.cap) (b : Byte) :
    storeByte n b s = .fault (.bufferIndex n s.cnt.toNat) :=
  if_neg h

/-- If a store answers a next state, the index was inside the buffer and the state is this one. -/
theorem storeByte_cases {n : BufName} {b : Byte} {s t : State} (h : storeByte n b s = .next t) :
    s.cnt.toNat < n.cap ∧ t = (s.setBuf n (Memory.write (s.buf n) s.cnt.toNat b)).setCnt (s.cnt + 1#16) := by
  by_cases hc : s.cnt.toNat < n.cap
  · rw [storeByte_next hc] at h
    exact ⟨hc, (Host.Outcome.next.inj h).symm⟩
  · rw [storeByte_fault hc] at h
    cases h

/-- A step that answers a next state was idle, or ran the event it fetched. -/
theorem step_cases {s t : State} (h : step s = .next t) :
    (fetch s = .error .noEvent ∧ t = s) ∨ (∃ i rest, fetch s = .ok (i, rest) ∧ exec i (s.setInput rest) = .next t) := by
  unfold step at h
  split at h
  · next i rest hf => exact .inr ⟨i, rest, hf, h⟩
  · next hf => exact .inl ⟨hf, (Host.Outcome.next.inj h).symm⟩
  · cases h
  · cases h

/-- The dispatch of R99 runs the frame kind of the key. -/
theorem dispatchFrame_eq_exec (k : Key) (s : State) : dispatchFrame k s = exec (keyInstr k) s := by
  unfold dispatchFrame keyInstr
  cases rxKind k <;> rfl

/-- The six components of R14 are what a decoder or encoder meaning keeps: it appends events and counts draws. -/
theorem dispatchFrame_cases (k : Key) (s : State) :
    ∃ ev n, dispatchFrame k s = .next ((s.emit [ev]).addDraws n) := by
  have h0 : ∀ ev, s.emit [ev] = (s.emit [ev]).addDraws 0 := fun _ => rfl
  have hr : ∀ id, ∃ ev n, emitRespNav id s = (s.emit [ev]).addDraws n := by
    intro id
    unfold emitRespNav
    cases s.params.respNav
    · exact ⟨_, 0, h0 _⟩
    · exact ⟨_, _, rfl⟩
  unfold dispatchFrame
  cases rxKind k
  · exact ⟨_, _, rfl⟩
  · exact ⟨_, _, rfl⟩
  · exact ⟨_, _, rfl⟩
  · exact ⟨_, _, rfl⟩
  · obtain ⟨ev, n, h⟩ := hr 244#16
    exact ⟨ev, n, congrArg _ h⟩
  · obtain ⟨ev, n, h⟩ := hr 241#16
    exact ⟨ev, n, congrArg _ h⟩
  · exact ⟨_, 0, rfl⟩

/-- The frame check answers one of two next states: accepted with three events, or rejected with one. -/
theorem frameCheck_cases (s : State) :
    (s.computedCrc = s.receivedCrc ∧ ∃ ev n,
      frameCheck s = .next ((s.emit [.frameOk, s.gpsTimeEvent, ev]).addDraws n).hunt) ∨
    (s.computedCrc ≠ s.receivedCrc ∧ frameCheck s = .next (rejectFrame s)) := by
  by_cases h : s.computedCrc = s.receivedCrc
  · refine .inl ⟨h, ?_⟩
    obtain ⟨ev, n, hd⟩ := dispatchFrame_cases s.key ((s.emit [.frameOk]).emit [s.gpsTimeEvent])
    refine ⟨ev, n, ?_⟩
    rw [frameCheck, if_pos h, acceptFrame, decodeFrame, State.emit_key, State.emit_gpsTimeEvent, hd]
    simp
  · exact .inr ⟨h, if_neg h⟩

/-- A buffer made of a run of bytes is canonical. -/
theorem Memory.ofBytes_wfFrom {lo o cap : Nat} {bs : List Byte} (hlo : lo ≤ o) (hcap : o + bs.length ≤ cap) :
    Memory.wfFrom lo cap (Memory.ofBytes o bs) = true := by
  induction bs generalizing lo o with
  | nil => rfl
  | cons b rest ih =>
    simp only [List.length_cons] at hcap
    exact Memory.cons_wfFrom hlo (by omega) (ih (Nat.le_refl _) (by omega))

end Sys2Proof.Machine
end

