-- ==== Sys2Proof/Laws/PerInstr.lean ====
section
/-! SUPPORT. The family EncodeSize: how many bytes each instruction's encoding has (30_encoding.md R47, R57, R58, R59,
R63), one lemma for each constructor. -/

namespace Sys2Proof.Laws.EncodeSize

/-- The size the spec gives the encoding of an instruction. -/
def size : Instr → Nat
  | .logAck _ => 3
  | .nav244 _ => 3
  | .nav241 _ => 3
  | .nav1Quirk _ => 3
  | .resp244 _ => 3
  | .resp241 _ => 3
  | .unexpected _ _ _ => 3
  | .cmdStartLog _ _ _ => 25 + 24
  | .cmdStopLog _ => 25 + 8
  | .rxByteHunt0 _ => 2
  | .rxByteHunt1 _ => 2
  | .rxByteHunt2 _ => 2
  | .rxByteHdr _ => 2
  | .rxBytePay _ => 2
  | .rxByteCks _ => 2
  | .rxTimeoutHunt => 1
  | .rxTimeoutCollect => 1
  | .crcCompute bs => 1 + 2 + bs.length
  | .encFrame _ bs => 1 + 2 + 2 + bs.length
  | .encStopLog _ => 1 + 2
  | .encStartLog _ _ _ => 1 + 2 + 4 + 4
  | .reset => 1

/-- The encoding has the size the spec gives it. -/
def Statement (i : Instr) : Prop := ∀ p : Params, (encode p i).length = size i

theorem length_leBytes (n v : Nat) : (leBytes n v).length = n := by
  induction n generalizing v with
  | zero => rfl
  | succ n ih => simp [leBytes, ih]

theorem logAck (t : BitVec 7) : Statement (.logAck t) := fun _ => rfl
theorem nav244 (t : BitVec 7) : Statement (.nav244 t) := fun _ => rfl
theorem nav241 (t : BitVec 7) : Statement (.nav241 t) := fun _ => rfl
theorem nav1Quirk (t : BitVec 7) : Statement (.nav1Quirk t) := fun _ => rfl
theorem resp244 (t : BitVec 7) : Statement (.resp244 t) := fun _ => rfl
theorem resp241 (t : BitVec 7) : Statement (.resp241 t) := fun _ => rfl
theorem unexpected (id : U16) (r : Bool) (t : BitVec 7) : Statement (.unexpected id r t) := fun _ => rfl
theorem cmdStartLog (lid : U16) (per off : U32) : Statement (.cmdStartLog lid per off) := fun _ => rfl
theorem cmdStopLog (uid : U16) : Statement (.cmdStopLog uid) := fun _ => rfl
theorem rxByteHunt0 (b : Byte) : Statement (.rxByteHunt0 b) := fun _ => rfl
theorem rxByteHunt1 (b : Byte) : Statement (.rxByteHunt1 b) := fun _ => rfl
theorem rxByteHunt2 (b : Byte) : Statement (.rxByteHunt2 b) := fun _ => rfl
theorem rxByteHdr (b : Byte) : Statement (.rxByteHdr b) := fun _ => rfl
theorem rxBytePay (b : Byte) : Statement (.rxBytePay b) := fun _ => rfl
theorem rxByteCks (b : Byte) : Statement (.rxByteCks b) := fun _ => rfl
theorem rxTimeoutHunt : Statement .rxTimeoutHunt := fun _ => rfl
theorem rxTimeoutCollect : Statement .rxTimeoutCollect := fun _ => rfl
theorem crcCompute (bs : List Byte) : Statement (.crcCompute bs) := by
  intro p
  simp only [encode, size, List.length_cons, List.length_append, length_leBytes]
  omega
theorem encFrame (id : U16) (bs : List Byte) : Statement (.encFrame id bs) := by
  intro p
  simp only [encode, size, List.length_cons, List.length_append, length_leBytes]
  omega
theorem encStopLog (uid : U16) : Statement (.encStopLog uid) := fun _ => rfl
theorem encStartLog (lid : U16) (per off : U32) : Statement (.encStartLog lid per off) := fun _ => rfl
theorem reset : Statement .reset := fun _ => rfl

end Sys2Proof.Laws.EncodeSize
end

