-- ==== Sys2Proof/Laws/Run.lean ====
section
/-! SUPPORT. Runs: how steps compose, and the step on a received byte. -/

namespace Sys2Proof.Machine

@[simp] theorem runSteps_zero (s : State) : runSteps 0 s = .next s := rfl

/-- One step, then the rest. -/
theorem runSteps_succ {s t : State} (h : step s = .next t) (k : Nat) : runSteps (k + 1) s = runSteps k t := by
  rw [runSteps, h, andThen_next]

/-- A run goes on from where its first part ended. -/
theorem runSteps_add {s t : State} {a : Nat} (h : runSteps a s = .next t) (b : Nat) :
    runSteps (a + b) s = runSteps b t := by
  induction a generalizing s with
  | zero =>
    cases h
    rw [Nat.zero_add]
  | succ a ih =>
    rw [runSteps] at h
    obtain ⟨u, hu, hr⟩ := andThen_eq_next h
    rw [Nat.add_right_comm, runSteps_succ hu, ih hr]

/-- The host's run, one step at a time. -/
theorem core_run_succ (M : Host.Core) (k : Nat) (s : M.State) :
    M.run (k + 1) s =
      match M.step s with
      | .next t => M.run k t
      | .fault r => .fault r
      | .refused r => .refused r := by
  cases h : M.step s <;> simp only [Host.Core.run, h]

/-- A run is the host's run. -/
theorem runSteps_eq_run (k : Nat) (s : State) : runSteps k s = Sys2Proof.core.run k s := by
  induction k generalizing s with
  | zero => rfl
  | succ k ih =>
    rw [runSteps]
    refine Eq.trans ?_ (core_run_succ Sys2Proof.core k s).symm
    cases hs : step s with
    | next t => rw [show Sys2Proof.core.step s = .next t from hs]; exact ih t
    | fault r => rw [show Sys2Proof.core.step s = .fault r from hs]; rfl
    | refused r => rw [show Sys2Proof.core.step s = .refused r from hs]; rfl

/-- With received bytes waiting, the step runs RX_BYTE's row of the phase on the first. -/
theorem step_receiving (s : State) (b : Byte) (bs : List Byte) :
    step (s.receiving (b :: bs)) = exec (rxByteInstr s.phase b) (s.receiving bs) := rfl

end Sys2Proof.Machine
end

