-- ==== Sys2Proof/Tests/Slice0.lean ====
section
/-! SUPPORT. Tests: ill-formed terms that WellFormed refuses, words written out from the spec's encodings, single steps
against the vectors of 95_test_vectors.md (all under E0), and for each statement with hypotheses a concrete case that
meets them. Expected values come from the spec's vectors and examples, never from the model. -/

namespace Sys2Proof.Tests

open Sys2Proof Sys2Proof.Machine

/-! ## WellFormed smoke: one ill-formed term for each check -/

theorem test_unexpected_with_id_1_is_ill_formed : (Instr.unexpected 1#16 true 0#7).wf = false := by decide
theorem test_unexpected_with_id_241_is_ill_formed : (Instr.unexpected 241#16 false 0#7).wf = false := by decide
theorem test_unexpected_with_id_244_is_ill_formed : (Instr.unexpected 244#16 false 0#7).wf = false := by decide

/-- Whether a run of one byte is short enough depends on its length alone. -/
theorem lengthOk_replicate (n : Nat) (b : Byte) : lengthOk (List.replicate n b) = decide (n ≤ 65535) := by
  rw [lengthOk, List.length_replicate]

theorem test_crcCompute_of_65536_bytes_is_ill_formed :
    (Instr.crcCompute (List.replicate 65536 0x00#8)).wf = false :=
  (lengthOk_replicate 65536 0x00#8).trans (by decide)

theorem test_encFrame_of_65536_bytes_is_ill_formed :
    (Instr.encFrame 42#16 (List.replicate 65536 0x00#8)).wf = false :=
  (lengthOk_replicate 65536 0x00#8).trans (by decide)

/-! ## Decoding: a word for each constructor, written out from R60 and R63 -/

theorem test_decode_rx_byte_in_each_phase :
    decodeEvent .hunt0 [0x00#8, 0xAA#8] = .ok (.rxByteHunt0 0xAA#8, []) ∧
    decodeEvent .hunt1 [0x00#8, 0x44#8] = .ok (.rxByteHunt1 0x44#8, []) ∧
    decodeEvent .hunt2 [0x00#8, 0x12#8] = .ok (.rxByteHunt2 0x12#8, []) ∧
    decodeEvent .hdr [0x00#8, 0x1C#8] = .ok (.rxByteHdr 0x1C#8, []) ∧
    decodeEvent .pay [0x00#8, 0x07#8] = .ok (.rxBytePay 0x07#8, []) ∧
    decodeEvent .cks [0x00#8, 0x7B#8, 0x00#8] = .ok (.rxByteCks 0x7B#8, [0x00#8]) := by decide

theorem test_decode_timeout_in_each_phase :
    decodeEvent .hunt0 [0x01#8] = .ok (.rxTimeoutHunt, []) ∧ decodeEvent .hunt1 [0x01#8] = .ok (.rxTimeoutHunt, []) ∧
    decodeEvent .hunt2 [0x01#8] = .ok (.rxTimeoutHunt, []) ∧ decodeEvent .hdr [0x01#8] = .ok (.rxTimeoutCollect, []) ∧
    decodeEvent .pay [0x01#8] = .ok (.rxTimeoutCollect, []) ∧ decodeEvent .cks [0x01#8] = .ok (.rxTimeoutCollect, []) := by
  decide

/-- V-C14's op bytes. -/
theorem test_decode_crc_compute :
    decodeEvent .hunt0 [0x02#8, 0x09#8, 0x00#8, 0x31#8, 0x32#8, 0x33#8, 0x34#8, 0x35#8, 0x36#8, 0x37#8, 0x38#8, 0x39#8] =
      .ok (.crcCompute [0x31#8, 0x32#8, 0x33#8, 0x34#8, 0x35#8, 0x36#8, 0x37#8, 0x38#8, 0x39#8], []) := by decide

/-- V-E4's op bytes, and a two-byte payload with id 0xBEEF: the id and the length are little-endian. -/
theorem test_decode_enc_frame :
    decodeEvent .hdr [0x03#8, 0x2A#8, 0x00#8, 0x00#8, 0x00#8] = .ok (.encFrame 42#16 [], []) ∧
    decodeEvent .hdr [0x03#8, 0xEF#8, 0xBE#8, 0x02#8, 0x00#8, 0x01#8, 0x02#8] =
      .ok (.encFrame 0xBEEF#16 [0x01#8, 0x02#8], []) := by decide

/-- V-E1's and V-E2's op bytes. -/
theorem test_decode_commands :
    decodeEvent .hunt0 [0x04#8, 0xF4#8, 0x00#8] = .ok (.encStopLog 244#16, []) ∧
    decodeEvent .hunt0 [0x05#8, 0xF4#8, 0x00#8, 0x00#8, 0x00#8, 0x80#8, 0x3E#8, 0x00#8, 0x00#8, 0x00#8, 0x00#8] =
      .ok (.encStartLog 244#16 0x3E800000#32 0#32, []) := by decide

/-- V-R2's op byte; reserved ops and a partial event are rejected by name. -/
theorem test_decode_reset_and_rejects :
    decodeEvent .cks [0x06#8] = .ok (.reset, []) ∧ decodeEvent .hunt0 [0x07#8] = .error (.reservedOp 0x07#8) ∧
    decodeEvent .hunt0 [0xFF#8, 0x00#8] = .error (.reservedOp 0xFF#8) ∧
    decodeEvent .hunt0 [0x05#8, 0xF4#8] = .error (.truncated 0x05#8) ∧ decodeEvent .hunt0 [] = .error .noEvent := by decide

/-- R60's inbound rows, each with type bits that are ignored. -/
theorem test_decode_frame_keys :
    decodeKey [0x01#8, 0x00#8, 0x80#8] = .ok (.logAck 0#7, []) ∧
    decodeKey [0xF4#8, 0x00#8, 0x00#8] = .ok (.nav244 0#7, []) ∧
    decodeKey [0xF1#8, 0x00#8, 0x7F#8] = .ok (.nav241 127#7, []) ∧
    decodeKey [0x01#8, 0x00#8, 0x00#8] = .ok (.nav1Quirk 0#7, []) ∧
    decodeKey [0xF4#8, 0x00#8, 0x80#8] = .ok (.resp244 0#7, []) ∧
    decodeKey [0xF1#8, 0x00#8, 0x81#8] = .ok (.resp241 1#7, []) ∧
    decodeKey [0x24#8, 0x00#8, 0x80#8] = .ok (.unexpected 36#16 true 0#7, []) ∧
    decodeKey [0xF4#8, 0x01#8, 0x00#8] = .ok (.unexpected 500#16 false 0#7, []) := by decide

/-- R60's outbound rows: header and payload of V-E5 and V-E6. -/
theorem test_decode_outbound_frames :
    decode paramsE0 .frameOut .hunt0
      ([0x1C#8, 0x24#8, 0x00#8, 0x00#8, 0xC0#8, 0x08#8, 0x00#8] ++ List.replicate 18 0x00#8 ++
       [0x01#8, 0x00#8, 0x00#8, 0x00#8, 0xF1#8, 0x00#8, 0x00#8, 0x00#8]) = .ok (.cmdStopLog 241#16, []) ∧
    decode paramsE0 .frameOut .hunt0
      ([0x1C#8, 0x01#8, 0x00#8, 0x00#8, 0xC0#8, 0x18#8, 0x00#8] ++ List.replicate 18 0x00#8 ++
       [0x01#8, 0x00#8, 0x00#8, 0x00#8, 0xF1#8, 0x00#8, 0x00#8, 0x00#8, 0x02#8, 0x00#8, 0x00#8, 0x00#8,
        0x00#8, 0x00#8, 0x80#8, 0x3E#8, 0x00#8, 0x00#8, 0x00#8, 0x00#8, 0x00#8, 0x00#8, 0x00#8, 0x00#8]) =
      .ok (.cmdStartLog 241#16 0x3E800000#32 0#32, []) := by decide +kernel

/-! ## States for the tests -/

/-- A state in a phase, with its counter and payload length. -/
def inState (ph : Phase) (cnt plen : U16) : State := { State.reset with phase := ph, cnt := cnt, plen := plen }

/-- A state with these header, payload and checksum bytes. -/
def withBytes (h q c : List Byte) (s : State) : State :=
  { s with hdrBuf := Memory.ofBytes 0 h, payBuf := Memory.ofBytes 0 q, rxCrc := Memory.ofBytes 0 c }

/-- The header of the vectors: id, type byte and payload length, all else as E0's sender writes it. -/
def header (id0 id1 ty n0 n1 : Byte) : List Byte :=
  [0x1C#8, id0, id1, ty, 0xC0#8, n0, n1] ++ List.replicate 18 0x00#8

/-- V-S18's frame with its last checksum byte to come. -/
def beforeLast : State :=
  withBytes (header 0x2A#8 0x00#8 0x00#8 0x00#8 0x00#8) [] [0x0E#8, 0xCF#8, 0x6C#8] (inState .cks 3#16 0#16)

/-- A 105-byte payload with a field at an offset. -/
def payload (o : Nat) (field : List Byte) : Memory := Memory.ofBytes o field

/-- The events of one instruction. -/
def events (i : Instr) (s : State) : Option (List OutEvent) := (nextOf (exec i s)).map fun (t : State) => t.output

/-- The phase, counter and payload length after one instruction. -/
def counters (i : Instr) (s : State) : Option (Phase × U16 × U16) :=
  (nextOf (exec i s)).map fun (t : State) => (t.phase, t.cnt, t.plen)

/-- The one NAV_SAMPLE an instruction emits. -/
def sample (i : Instr) (s : State) : Option (U16 × NavFields) :=
  match events i s with
  | some [.navSample id f] => some (id, f)
  | _ => none

/-! ## One step each, against the spec's vectors -/

/-- V-S1, V-S2. -/
theorem test_rx_hunt0 :
    counters (.rxByteHunt0 0xAA#8) (inState .hunt0 0#16 0#16) = some (.hunt1, 0#16, 0#16) ∧
    counters (.rxByteHunt0 0x44#8) (inState .hunt0 0#16 0#16) = some (.hunt0, 0#16, 0#16) := by decide

/-- V-S3, V-S4, V-S5. -/
theorem test_rx_hunt1 :
    counters (.rxByteHunt1 0x44#8) (inState .hunt1 0#16 0#16) = some (.hunt2, 0#16, 0#16) ∧
    counters (.rxByteHunt1 0xAA#8) (inState .hunt1 0#16 0#16) = some (.hunt1, 0#16, 0#16) ∧
    counters (.rxByteHunt1 0x12#8) (inState .hunt1 0#16 0#16) = some (.hunt0, 0#16, 0#16) := by decide

/-- V-S6, V-S7. -/
theorem test_rx_hunt2 :
    counters (.rxByteHunt2 0x12#8) (inState .hunt2 0#16 0#16) = some (.hdr, 0#16, 0#16) ∧
    counters (.rxByteHunt2 0xAA#8) (inState .hunt2 0#16 0#16) = some (.hunt0, 0#16, 0#16) := by decide

/-- R83's example. -/
theorem test_rx_hdr_stores :
    (nextOf (exec (.rxByteHdr 0x1C#8) (inState .hdr 0#16 0#16))).map
      (fun (t : State) => (Memory.read t.hdrBuf 0, t.cnt, t.phase)) = some (0x1C#8, 1#16, Phase.hdr) := by decide

/-- V-S9, V-S10. -/
theorem test_rx_hdr_completes :
    counters (.rxByteHdr 0x00#8) (withBytes (header 0xF4#8 0x00#8 0x00#8 0x69#8 0x00#8) [] [] (inState .hdr 24#16 0#16)) =
      some (.pay, 0#16, 105#16) ∧
    counters (.rxByteHdr 0x00#8) (withBytes (header 0x2A#8 0x00#8 0x00#8 0x00#8 0x00#8) [] [] (inState .hdr 24#16 7#16)) =
      some (.cks, 0#16, 0#16) := by decide

/-- R85's example, and a payload that goes on. -/
theorem test_rx_pay :
    (nextOf (exec (.rxBytePay 0x07#8) (inState .pay 0#16 1#16))).map
      (fun (t : State) => (Memory.read t.payBuf 0, t.cnt, t.phase)) = some (0x07#8, 0#16, Phase.cks) ∧
    (nextOf (exec (.rxBytePay 0x07#8) (inState .pay 3#16 5#16))).map
      (fun (t : State) => (Memory.read t.payBuf 3, t.cnt, t.phase)) = some (0x07#8, 4#16, Phase.pay) := by decide

/-- V-S18: the last byte accepts the frame. -/
theorem test_rx_cks_accepts :
    events (.rxByteCks 0x22#8) beforeLast =
      some [.frameOk, .gpsTime 0#16 0#32 0#8, .unexpectedId 42#16 false] := by decide +kernel

/-- P6: the false sync's header, with four zero bytes in the place of the checksum. -/
theorem test_rx_cks_rejects :
    events (.rxByteCks 0x00#8)
      (withBytes ([0xAA#8, 0x44#8, 0x12#8, 0x1C#8, 0xF4#8, 0x00#8, 0x00#8, 0xC0#8, 0x69#8, 0x00#8] ++
        List.replicate 15 0x00#8) [] [] (inState .cks 3#16 0#16)) =
      some [.checksumMismatch 0xDE0F4DD1#32 0x00000000#32] := by decide +kernel

/-- V-S8 in HUNT1. -/
theorem test_tmo_hunt : exec .rxTimeoutHunt (inState .hunt1 0#16 0#16) = .next (inState .hunt1 0#16 0#16) := rfl

/-- V-S11, V-S12, V-S13. -/
theorem test_tmo_collect :
    events .rxTimeoutCollect (inState .hdr 10#16 0#16) = some [.shortRead .hdr 10#16] ∧
    events .rxTimeoutCollect (inState .pay 50#16 105#16) = some [.shortRead .pay 50#16] ∧
    counters .rxTimeoutCollect (inState .cks 2#16 105#16) = some (.hunt0, 0#16, 105#16) := by decide

/-- V-C1, V-C6. -/
theorem test_crc_compute :
    events (.crcCompute []) State.reset = some [.crcResult 0x00000000#32] ∧
    events (.crcCompute [0x31#8, 0x32#8, 0x33#8, 0x34#8, 0x35#8, 0x36#8, 0x37#8, 0x38#8, 0x39#8]) State.reset =
      some [.crcResult 0x2DFD2D88#32] := by decide +kernel

/-- V-C15 and V-C16: the parameters are used. -/
theorem test_crc_parameters :
    crc { paramsE0 with crcInit := 0xFFFFFFFF#32, crcXorOut := 0xFFFFFFFF#32 }
      [0x31#8, 0x32#8, 0x33#8, 0x34#8, 0x35#8, 0x36#8, 0x37#8, 0x38#8, 0x39#8] = 0xCBF43926#32 ∧
    crc { paramsE0 with crcPoly := 0x82F63B78#32 }
      [0x31#8, 0x32#8, 0x33#8, 0x34#8, 0x35#8, 0x36#8, 0x37#8, 0x38#8, 0x39#8] = 0x58E3FA20#32 := by decide +kernel

/-- V-E4. -/
theorem test_enc_frame :
    events (.encFrame 42#16 []) State.reset =
      some [.txFrame ([0xAA#8, 0x44#8, 0x12#8, 0x1C#8, 0x2A#8, 0x00#8, 0x00#8, 0xC0#8, 0x00#8, 0x00#8] ++
        List.replicate 18 0x00#8 ++ [0x0E#8, 0xCF#8, 0x6C#8, 0x22#8])] := by decide +kernel

/-- V-E7. -/
theorem test_enc_header :
    encHeader paramsE0 0xBEEF#16 0x1234#16 =
      [0xAA#8, 0x44#8, 0x12#8, 0x1C#8, 0xEF#8, 0xBE#8, 0x00#8, 0xC0#8, 0x34#8, 0x12#8] ++ List.replicate 18 0x00#8 := by
  decide

/-- The stop-logging frames of V-E1 (244) and V-E5 (241). -/
def stopFrame (id0 : Byte) (sum : List Byte) : List Byte :=
  [0xAA#8, 0x44#8, 0x12#8, 0x1C#8, 0x24#8, 0x00#8, 0x00#8, 0xC0#8, 0x08#8, 0x00#8] ++ List.replicate 18 0x00#8 ++
    [0x01#8, 0x00#8, 0x00#8, 0x00#8, id0, 0x00#8, 0x00#8, 0x00#8] ++ sum

/-- V-E1, and V-E5 as an outbound frame. -/
theorem test_stop_log :
    events (.encStopLog 244#16) State.reset = some [.txFrame (stopFrame 0xF4#8 [0xF8#8, 0x04#8, 0xB2#8, 0x89#8])] ∧
    events (.cmdStopLog 241#16) State.reset = some [.txFrame (stopFrame 0xF1#8 [0xCA#8, 0xF4#8, 0x6C#8, 0xBE#8])] := by
  decide +kernel

/-- The start-logging frames of V-E2 (244) and V-E6 (241). -/
def startFrame (id0 : Byte) (sum : List Byte) : List Byte :=
  [0xAA#8, 0x44#8, 0x12#8, 0x1C#8, 0x01#8, 0x00#8, 0x00#8, 0xC0#8, 0x18#8, 0x00#8] ++ List.replicate 18 0x00#8 ++
    [0x01#8, 0x00#8, 0x00#8, 0x00#8, id0, 0x00#8, 0x00#8, 0x00#8, 0x02#8, 0x00#8, 0x00#8, 0x00#8,
     0x00#8, 0x00#8, 0x80#8, 0x3E#8, 0x00#8, 0x00#8, 0x00#8, 0x00#8, 0x00#8, 0x00#8, 0x00#8, 0x00#8] ++ sum

/-- V-E2. -/
theorem test_start_log :
    events (.encStartLog 244#16 0x3E800000#32 0#32) State.reset =
      some [.txFrame (startFrame 0xF4#8 [0x2C#8, 0x82#8, 0x09#8, 0xCC#8])] := by decide +kernel

/-- V-E6 as an outbound frame. -/
theorem test_cmd_start_log :
    events (.cmdStartLog 241#16 0x3E800000#32 0#32) State.reset =
      some [.txFrame (startFrame 0xF1#8 [0x33#8, 0x52#8, 0x83#8, 0xE7#8])] := by decide +kernel

/-- V-R1: RESET in HDR with cnt 7 emits nothing. -/
theorem test_reset :
    counters .reset (inState .hdr 7#16 105#16) = some (.hunt0, 0#16, 0#16) ∧ events .reset (inState .hdr 7#16 105#16) = some [] := by
  decide

/-- R100's example, and the status P_ACK_CRCERR and another (R101). -/
theorem test_log_ack :
    events (.logAck 0#7) (withBytes [] [0x01#8] [] (inState .cks 3#16 4#16)) = some [.ack 1#32 .ok] ∧
    events (.logAck 0#7) (withBytes [] [0x02#8] [] (inState .cks 3#16 4#16)) = some [.ack 2#32 .crcErr] ∧
    events (.logAck 0#7) (withBytes [] [0x05#8] [] (inState .cks 3#16 4#16)) = some [.ack 5#32 .other] := by decide +kernel

/-- L1.1: pos_x = 6378137.0. -/
theorem test_nav_244 :
    (sample (.nav244 0#7) { inState .cks 3#16 105#16 with
        payBuf := payload 8 [0x00#8, 0x00#8, 0x00#8, 0x40#8, 0xA6#8, 0x54#8, 0x58#8, 0x41#8] }).map
      (fun r => (r.1, r.2.posX, r.2.posY, r.2.numSats)) = some (244#16, 0x415854A640000000#64, 0#64, 0#8) := by
  decide +kernel

/-- V-D6: the header's time fields, and the payload's fields at distinct values. -/
theorem test_nav_241 :
    (sample (.nav241 0#7) { inState .cks 3#16 105#16 with
        hdrBuf := Memory.ofBytes 10 [0xB4#8, 0x98#8, 0x08#8, 0x00#8, 0x70#8, 0x99#8, 0x14#8]
        payBuf := Memory.ofBytes 4 [0x32#8] ++ Memory.ofBytes 52 [0x00#8, 0x00#8, 0x00#8, 0x00#8, 0x00#8, 0x00#8, 0xF8#8, 0xBF#8] ++
          Memory.ofBytes 76 [0x00#8, 0x00#8, 0x00#8, 0x3F#8] ++ Memory.ofBytes 88 (List.replicate 16 0xEE#8 ++ [0x0C#8]) }).map
      (fun r => (r.1, r.2.tstat, r.2.week, r.2.ms, r.2.posType, r.2.velX, r.2.verrX, r.2.numSats)) =
      some (241#16, 180#8, 2200#16, 345600000#32, 50#32, 0xBFF8000000000000#64, 0x3F000000#32, 12#8) := by
  decide +kernel

/-- V-D7's id. -/
theorem test_nav_1_quirk :
    (sample (.nav1Quirk 0#7) (inState .cks 3#16 105#16)).map (fun r => (r.1, r.2.posX, r.2.verrZ)) =
      some (1#16, 0#64, 0#32) := by decide +kernel

/-- V-D11's kind: byte 105 of a 106-byte payload is not read. -/
theorem test_nav_244_extra_byte :
    (sample (.nav244 0#7) { inState .cks 3#16 106#16 with payBuf := payload 105 [0x99#8] }).map
      (fun r => (r.1, r.2.numSats)) = some (244#16, 0#8) := by decide +kernel

/-- V-D10: plen 10 holds pos_status and pos_type. -/
theorem test_nav_244_short_payload :
    (sample (.nav244 0#7) { inState .cks 3#16 10#16 with
        payBuf := payload 0 [0x01#8, 0x02#8, 0x03#8, 0x04#8, 0x05#8, 0x06#8, 0x07#8, 0x08#8, 0x09#8, 0x0A#8] }).map
      (fun r => (r.2.posStatus, r.2.posType)) = some (0x04030201#32, 0x08070605#32) := by decide +kernel

/-- R104's example, and the other id. -/
theorem test_resp_nav_unexpected :
    events (.resp244 0#7) (inState .cks 3#16 105#16) = some [.unexpectedId 244#16 true] ∧
    events (.resp241 0#7) (inState .cks 3#16 105#16) = some [.unexpectedId 241#16 true] := by decide +kernel

/-- R104 with P_RESP_NAV = DECODE. -/
theorem test_resp_nav_decode :
    (sample (.resp244 0#7) { inState .cks 3#16 105#16 with params := { paramsE0 with respNav := .decode } }).map (·.1) =
      some 244#16 ∧
    (sample (.resp241 0#7) { inState .cks 3#16 105#16 with params := { paramsE0 with respNav := .decode } }).map (·.1) =
      some 241#16 := by decide +kernel

/-- R105's example. -/
theorem test_unexpected :
    events (.unexpected 42#16 false 0#7) State.reset = some [.unexpectedId 42#16 false] := by decide

/-! ## Fetch and codes -/

/-- The next step after reset runs a placed key (here id 36, R60's loopback row) and a placed event (RESET). -/
theorem test_with_fetch_word :
    (nextOf (step (State.reset.withFetchWord 24 0x000024))).map (fun (t : State) => t.output) =
      some [.frameOk, .gpsTime 0#16 0#32 0#8, .unexpectedId 36#16 false] ∧
    (nextOf (step (State.reset.withFetchWord 8 0x06))).map (fun (t : State) => (t.phase, t.output)) =
      some (Phase.hunt0, []) := by decide +kernel

/-- R17's and R62's codes, and R53 for E0's offsets. -/
theorem test_codes :
    phaseCode .cks = 5#3 ∧ syncProgress .hunt2 = 2 ∧ eventCode (.shortRead .hdr 0#16) = 0x10#8 ∧
    eventCode (.crcResult 0#32) = 0x21#8 ∧ paramsE0.timeFieldsValid = true := by decide

/-! ## Witnesses: for each statement with hypotheses, a case that meets them -/

/-- The invariant of a hunting state with empty buffers. -/
theorem inv_hunt : (inState .hunt0 0#16 0#16).Inv := ⟨rfl, rfl, rfl, rfl, by simp [inState]⟩

/-- The invariant at the first header byte. -/
theorem inv_hdr : (inState .hdr 0#16 0#16).Inv := ⟨rfl, rfl, rfl, show (0#16).toNat < 25 by decide, by simp [inState]⟩

/-- The invariant at the last header byte. -/
theorem inv_hdr_last : (inState .hdr 24#16 0#16).Inv := ⟨rfl, rfl, rfl, show (24#16).toNat < 25 by decide, by simp [inState]⟩

/-- The invariant at the last byte of a payload of the greatest length. -/
theorem inv_pay_last : ({ inState .pay 65534#16 65535#16 with hdrBuf := Memory.ofBytes 5 [0xFF#8, 0xFF#8] } : State).Inv :=
  ⟨by decide, rfl, rfl, show (65534#16).toNat < (65535#16).toNat by decide, fun _ => by decide⟩

/-- The invariant at the last checksum byte. -/
theorem inv_cks_last : beforeLast.Inv :=
  ⟨by decide, by decide, by decide, show (3#16).toNat < 4 by decide, fun _ => by decide⟩

theorem witness_EveryStepKeepsTheInvariant :
    ∃ s t : State, s.Inv ∧ step s = .next t ∧ t.phase = .hunt1 :=
  ⟨(inState .hunt0 0#16 0#16).setInput [0x00#8, 0xAA#8], _, ⟨rfl, rfl, rfl, rfl, by simp [inState, State.setInput]⟩, rfl, rfl⟩

theorem witness_NoInputStopsTheBlock :
    (inState .hdr 24#16 0#16).Inv ∧ (Instr.rxByteHdr 0xFF#8).wf = true ∧
      (Instr.rxByteHdr 0xFF#8).inPhase (inState .hdr 24#16 0#16).phase = true ∧
    beforeLast.Inv ∧ (Instr.rxByteCks 0xFF#8).inPhase beforeLast.phase = true :=
  ⟨inv_hdr_last, rfl, rfl, inv_cks_last, rfl⟩

theorem witness_CrcResidueIsZero : paramsE0.crcXorOut = 0#32 := rfl

theorem witness_CrcStepByByteTable : paramsE0.crcInit = 0#32 ∧ paramsE0.crcXorOut = 0#32 := ⟨rfl, rfl⟩

theorem witness_CrcDetectsEverySingleByteChange :
    paramsE0.crcPoly.getLsbD 31 = true ∧ (0x31#8 : Byte) ≠ 0x30#8 := by decide

theorem witness_CrcComputeEmitsTheCrc :
    ([] : List Byte).length ≤ 65535 ∧ (List.replicate 65535 0x00#8).length ≤ 65535 :=
  ⟨by decide, Nat.le_of_eq List.length_replicate⟩

theorem witness_ByteConversionsAreInverse : (0 < 2 ^ (8 * 0)) ∧ (2 ^ 32 - 1 < 2 ^ (8 * 4)) := by decide

theorem witness_DecodeOfEncodeIsTheInstruction :
    (Instr.unexpected 0xFFFF#16 true 127#7).wf = true ∧ (Instr.unexpected 0xFFFF#16 true 127#7).inPhase .hunt0 = true ∧
    (Instr.encFrame 0#16 (List.replicate 65535 0x00#8)).wf = true ∧
    (Instr.rxByteCks 0xFF#8).inPhase .cks = true ∧ (Instr.rxTimeoutHunt).inPhase .hunt2 = true :=
  ⟨rfl, rfl, (lengthOk_replicate 65535 0x00#8).trans (by decide), rfl, rfl⟩

theorem witness_DecodedEventIsEncodedThatWay :
    decodeEvent .pay [0x03#8, 0x2A#8, 0x00#8, 0x01#8, 0x00#8, 0xFF#8, 0x06#8] = .ok (.encFrame 42#16 [0xFF#8], [0x06#8]) := by
  decide

theorem witness_StepRunsTheDecodedEvent :
    (Instr.encStopLog 0xFFFF#16).wf = true ∧ (Instr.encStopLog 0xFFFF#16).format = .portOp ∧
    (Instr.encStopLog 0xFFFF#16).inPhase (inState .hdr 0#16 0#16).phase = true ∧
    ((inState .hdr 0#16 0#16).setInput [0x04#8, 0xFF#8, 0xFF#8, 0x06#8]).input =
      encode paramsE0 (.encStopLog 0xFFFF#16) ++ [0x06#8] := by decide

theorem witness_IdleBlockKeepsItsState : State.reset.input = [] := rfl

theorem witness_AcceptingStepRunsTheFrameKind :
    beforeLast.cnt = 3#16 ∧ (beforeLast.withLastSum 0x22#8).computedCrc = (beforeLast.withLastSum 0x22#8).receivedCrc := by
  decide +kernel

theorem witness_StepRefusesOnlyIllFormedInput :
    (State.reset.setInput [0x07#8]).input = [0x07#8] ∧ 7 ≤ (0x07#8).toNat ∧ 7 ≤ (0xFF#8).toNat ∧
    step (State.reset.setInput [0xFF#8]) = .refused (.reservedOp 0xFF#8) ∧
    step (State.reset.setInput [0x00#8]) = .refused (.truncatedEvent 0x00#8) ∧
    step (State.reset.setInput [0x05#8, 0xF4#8]) = .refused (.truncatedEvent 0x05#8) :=
  ⟨rfl, by decide, by decide, rfl, rfl, rfl⟩

theorem witness_StepTakesOneEventAndKeepsThePorts :
    (∃ t, step State.reset = .next t) ∧ ∃ t, step (State.reset.setInput [0x06#8, 0x06#8]) = .next t ∧ t.input = [0x06#8] :=
  ⟨⟨_, rfl⟩, _, rfl, rfl⟩

theorem witness_EmittedEventsDoNotFeedBack :
    ∃ t, step ((inState .hdr 10#16 0#16).setInput [0x01#8]) = .next t ∧ t.output = [.shortRead .hdr 10#16] := ⟨_, rfl, rfl⟩

/-- A case of each kind of event list: none, one, and CKS before its last byte, accepting and rejecting. -/
theorem witness_EachEventEmitsWhatThePortAllows :
    (events (.rxByteHunt0 0xAA#8) State.reset = some []) ∧
    (events (.rxByteCks 0x00#8) (inState .cks 2#16 0#16) = some []) ∧
    ((events (.rxByteCks 0x22#8) beforeLast).map List.length = some 3) ∧
    ((events (.rxByteCks 0x23#8) beforeLast).map List.length = some 1) ∧
    ((events (.resp244 0#7) State.reset).map List.length = some 1) := by decide +kernel

theorem witness_NoStepEmitsTwoErrors :
    ∃ t, step ((inState .pay 0#16 1#16).setInput [0x01#8]) = .next t ∧ (t.output.filter isError).length = 1 := ⟨_, rfl, rfl⟩

theorem witness_TimeoutWhileHuntingIsSkipped :
    ∀ ph : Phase, ph = .hunt0 ∨ ph = .hunt1 ∨ ph = .hunt2 → (decodeEvent ph [0x01#8] = .ok (.rxTimeoutHunt, [])) := by
  rintro ph (rfl | rfl | rfl) <;> rfl

theorem witness_HeaderByteIsStoredAndCompletesTheHeader :
    (inState .hdr 0#16 0#16).cnt.toNat < 24 ∧ (inState .hdr 23#16 0#16).cnt.toNat < 24 ∧ (inState .hdr 24#16 0#16).cnt.toNat = 24 := by
  decide

theorem witness_PayloadByteIsStoredAndCompletesThePayload :
    (inState .pay 0#16 2#16).cnt.toNat < 65535 ∧ (inState .pay 0#16 2#16).cnt + 1#16 ≠ (inState .pay 0#16 2#16).plen ∧
    (inState .pay 65534#16 65535#16).cnt.toNat < 65535 ∧
    (inState .pay 65534#16 65535#16).cnt + 1#16 = (inState .pay 65534#16 65535#16).plen := by decide

theorem witness_ChecksumByteIsStored : (inState .cks 0#16 0#16).cnt.toNat < 3 ∧ (inState .cks 2#16 0#16).cnt.toNat < 3 := by decide

theorem witness_MismatchedFrameIsRejected :
    beforeLast.cnt = 3#16 ∧
    crc beforeLast.params ([0xAA#8, 0x44#8, 0x12#8] ++ Memory.slice beforeLast.hdrBuf 0 25 ++
      Memory.slice beforeLast.payBuf 0 beforeLast.plen.toNat) ≠ le4 (Memory.write beforeLast.rxCrc 3 0x23#8) 0 := by
  decide +kernel

theorem witness_MatchingFrameIsAcceptedAndDecoded :
    beforeLast.cnt = 3#16 ∧
    crc beforeLast.params ([0xAA#8, 0x44#8, 0x12#8] ++ Memory.slice beforeLast.hdrBuf 0 25 ++
      Memory.slice beforeLast.payBuf 0 beforeLast.plen.toNat) = le4 (Memory.write beforeLast.rxCrc 3 0x22#8) 0 := by
  decide +kernel

theorem witness_TimeoutWhileCollectingIsAShortRead :
    ∀ ph : Phase, ph = .hdr ∨ ph = .pay ∨ ph = .cks → (decodeEvent ph [0x01#8] = .ok (.rxTimeoutCollect, [])) := by
  rintro ph (rfl | rfl | rfl) <;> rfl

/-- The boundary on both sides, for each of the three buffers. -/
theorem witness_IndexOutsideTheBufferFaults :
    exec (.rxByteHdr 0#8) (inState .hdr 25#16 0#16) = .fault (.bufferIndex .hdrBuf 25) ∧
    (∃ t, exec (.rxByteHdr 0#8) (inState .hdr 24#16 0#16) = .next t) ∧
    exec (.rxBytePay 0#8) (inState .pay 65535#16 0#16) = .fault (.bufferIndex .payBuf 65535) ∧
    (∃ t, exec (.rxBytePay 0#8) (inState .pay 65534#16 0#16) = .next t) ∧
    exec (.rxByteCks 0#8) (inState .cks 4#16 0#16) = .fault (.bufferIndex .rxCrc 4) ∧
    (∃ t, exec (.rxByteCks 0#8) (inState .cks 2#16 0#16) = .next t) :=
  ⟨rfl, ⟨_, rfl⟩, rfl, ⟨_, rfl⟩, rfl, ⟨_, rfl⟩⟩

theorem witness_StoringEventsChangeOneByte :
    (inState .hdr 0#16 0#16).Inv ∧ (∃ t, exec (.rxByteHdr 0xFF#8) (inState .hdr 0#16 0#16) = .next t) ∧
    ({ inState .pay 65534#16 65535#16 with hdrBuf := Memory.ofBytes 5 [0xFF#8, 0xFF#8] } : State).Inv ∧
    (∃ t, exec (.rxBytePay 0xFF#8)
      { inState .pay 65534#16 65535#16 with hdrBuf := Memory.ofBytes 5 [0xFF#8, 0xFF#8] } = .next t) ∧
    beforeLast.Inv ∧ (nextOf (exec (.rxByteCks 0xFF#8) beforeLast)).isSome = true :=
  ⟨inv_hdr, ⟨_, rfl⟩, inv_pay_last, ⟨_, rfl⟩, inv_cks_last, by decide +kernel⟩

theorem witness_OtherInstructionsChangeNoBuffer :
    (∃ t, exec (.encStopLog 244#16) beforeLast = .next t) ∧
    (∀ b, Instr.encStopLog 244#16 ≠ .rxByteHdr b ∧ Instr.encStopLog 244#16 ≠ .rxBytePay b ∧
      Instr.encStopLog 244#16 ≠ .rxByteCks b) ∧
    (∃ t, exec .reset beforeLast = .next t) ∧ (∃ t, exec (.rxByteHunt2 0x12#8) State.reset = .next t) :=
  ⟨⟨_, rfl⟩, fun _ => ⟨nofun, nofun, nofun⟩, ⟨_, rfl⟩, _, rfl⟩

theorem witness_RepeatedFirstSyncByteKeepsTheSync : (inState .hunt1 0#16 0#16).phase = .hunt1 := rfl

theorem witness_OverlappingSyncIsLost : State.reset.phase = .hunt0 := rfl

/-- The least candidate (length 0, 29 bytes) and the greatest (length 65535). -/
theorem witness_CandidateEndsAfterItsStatedLength :
    (inState .hdr 0#16 0#16).Inv ∧ (inState .hdr 0#16 0#16).phase = .hdr ∧ (inState .hdr 0#16 0#16).cnt = 0#16 ∧
    leAt (List.replicate 29 0x00#8) 5 2 = 0 ∧ 29 + 0 ≤ (List.replicate 29 0x00#8).length ∧
    leAt (List.replicate 65564 0xFF#8) 5 2 = 65535 ∧ 29 + 65535 ≤ (List.replicate 65564 0xFF#8).length :=
  ⟨inv_hdr, rfl, rfl, by decide, by decide,
   by rw [leAt, List.drop_replicate, List.take_replicate]; decide, Nat.le_of_eq List.length_replicate.symm⟩

theorem witness_LogAckEmitsStatusAndClass :
    (0xFF0001#24 : Key) &&& 0x80FFFF#24 = 0x800001#24 ∧ 4 ≤ (inState .cks 3#16 4#16).plen.toNat := by decide

theorem witness_NavFramesEmitTheExactSample : 105 ≤ (inState .cks 3#16 105#16).plen.toNat := by decide

/-- Each kind's key, with type bits set, and an empty payload. -/
theorem witness_NavFramesKeepTheFieldsThatFit :
    (0x7F00F4#24 : Key) &&& 0x80FFFF#24 = 0x0000F4#24 ∧ (0x0100F1#24 : Key) &&& 0x80FFFF#24 = 0x0000F1#24 ∧
    (0x000001#24 : Key) &&& 0x80FFFF#24 = 0x000001#24 ∧
    (Instr.nav244 0#7 = .nav244 0#7 ∧ (244#16 : U16) = 244#16) := by decide

theorem witness_NavResponsesFollowTheParameter :
    (0xFF00F4#24 : Key) &&& 0x80FFFF#24 = 0x8000F4#24 ∧ (0x8000F1#24 : Key) &&& 0x80FFFF#24 = 0x8000F1#24 ∧
    State.reset.params.respNav = .unexpected ∧
    ({ State.reset with params := { paramsE0 with respNav := .decode } } : State).params.respNav = .decode := by decide

theorem witness_UnexpectedFramesAreReported :
    keyId 0x000000#24 ≠ 1#16 ∧ keyId 0x000000#24 ≠ 244#16 ∧ keyId 0x000000#24 ≠ 241#16 ∧
    keyId 0x80FFFF#24 ≠ 1#16 ∧ keyId 0x80FFFF#24 ≠ 244#16 ∧ keyId 0x80FFFF#24 ≠ 241#16 := by decide

/-- Another byte at 88, 103 and 105, and for an acknowledgment at 4. -/
theorem witness_UncoveredPayloadBytesChangeNothing :
    (∀ a, a < 88 ∨ a = 104 →
      Memory.read [(88, 0xEE#8), (103, 0xEE#8), (105, 0x99#8)] a = Memory.read (inState .cks 3#16 106#16).payBuf a) ∧
    (∃ t, exec (keyInstr 0x0000F4#24) (inState .cks 3#16 106#16) = .next t) ∧
    (∀ a, a < 4 → Memory.read [(4, 0xEE#8)] a = Memory.read (inState .cks 3#16 106#16).payBuf a) ∧
    (∃ t, exec (.logAck 0#7) (inState .cks 3#16 106#16) = .next t) := by
  refine ⟨?_, ⟨_, rfl⟩, ?_, ⟨_, rfl⟩⟩
  · intro a ha
    have h1 : ¬ 88 = a := by omega
    have h2 : ¬ 103 = a := by omega
    have h3 : ¬ 105 = a := by omega
    simp [Memory.read_pair, Memory.read_nil, h1, h2, h3, inState, State.reset]
  · intro a ha
    have h1 : ¬ 4 = a := by omega
    simp [Memory.read_pair, Memory.read_nil, h1, inState, State.reset]

theorem witness_FrameKindsKeepTheReceiveState :
    ∃ t, exec (keyInstr 0x8000F4#24) State.reset = .next t ∧ t.output = [.unexpectedId 244#16 true] := ⟨_, rfl, rfl⟩

theorem witness_EncFrameEmitsTheWholeFrame :
    (List.replicate 65535 0x00#8).length ≤ 65535 ∧ ([] : List Byte).length ≤ 65535 ∧
    encHeader State.reset.params 42#16 (BitVec.ofNat 16 0) =
      encHeader State.reset.params 42#16 (BitVec.ofNat 16 ([] : List Byte).length) ++ [] :=
  ⟨Nat.le_of_eq List.length_replicate, by decide, (List.append_nil _).symm⟩

theorem witness_StopLogSendsItsCommand :
    ([0x01#8, 0x00#8, 0x00#8, 0x00#8, 0xF4#8, 0x00#8, 0x00#8, 0x00#8] : List Byte) =
      leBytes 4 State.reset.params.cmdPort.toNat ++ leBytes 2 (244#16).toNat ++ [0x00#8, 0x00#8] := by decide

theorem witness_StartLogSendsItsCommand :
    ([0x01#8, 0x00#8, 0x00#8, 0x00#8, 0xF4#8, 0x00#8, 0x00#8, 0x00#8, 0x02#8, 0x00#8, 0x00#8, 0x00#8,
      0x00#8, 0x00#8, 0x80#8, 0x3E#8, 0x00#8, 0x00#8, 0x00#8, 0x00#8, 0x00#8, 0x00#8, 0x00#8, 0x00#8] : List Byte) =
      leBytes 4 State.reset.params.cmdPort.toNat ++ leBytes 2 (244#16).toNat ++ [0x00#8, 0x00#8] ++
      [0x02#8, 0x00#8, 0x00#8, 0x00#8] ++ leBytes 4 (0x3E800000#32).toNat ++ leBytes 4 (0#32).toNat ++
      [0x00#8, 0x00#8, 0x00#8, 0x00#8] := by decide

theorem witness_CommandsDoNotDisturbReception :
    transmits (.encStopLog 244#16) = true ∧ (∃ u, exec (.encStopLog 244#16) (inState .hdr 17#16 0#16) = .next u) ∧
    (∃ t, exec (.rxByteHdr 0x00#8) (inState .hdr 17#16 0#16) = .next t) := ⟨rfl, ⟨_, rfl⟩, _, rfl⟩

theorem witness_SentFramesAreAccepted :
    ∃ (u : State) (F : List Byte), (Instr.encStopLog 244#16).wf = true ∧ exec (.encStopLog 244#16) State.reset = .next u ∧
      u.output = State.reset.output ++ [.txFrame F] ∧ (inState .hunt0 0#16 0#16).Inv ∧ (inState .hunt0 0#16 0#16).phase = .hunt0 ∧
      (inState .hunt0 0#16 0#16).params = State.reset.params :=
  ⟨_, _, rfl, rfl, rfl, inv_hunt, rfl, rfl⟩

theorem witness_OldBufferContentsNeverShow :
    ∃ (s s' : State) (k : Nat) (t : State), s.Inv ∧ s'.Inv ∧ s.phase = .hunt2 ∧ s'.phase = s.phase ∧
      s'.params = s.params ∧ s'.input = s.input ∧ s'.output = s.output ∧ s'.draws = s.draws ∧ s'.hdrBuf ≠ s.hdrBuf ∧
      s'.plen ≠ s.plen ∧ runSteps k s = .next t ∧ t.phase = .hdr :=
  ⟨(inState .hunt2 0#16 0#16).receiving [0x12#8],
   { (inState .hunt2 0#16 7#16).receiving [0x12#8] with hdrBuf := [(0, 0xFF#8)] }, 1, _,
   ⟨rfl, rfl, rfl, rfl, by simp [inState, State.receiving, State.setInput]⟩,
   ⟨by decide, rfl, rfl, rfl, by simp [inState, State.receiving, State.setInput]⟩,
   rfl, rfl, rfl, rfl, rfl, rfl, nofun, by decide, rfl, rfl⟩

theorem witness_OnlyFrameOkHoldsTheWatchdogOff : OutEvent.checksumMismatch 0#32 1#32 ≠ .frameOk := nofun

/-- A host 10 001 ms after its staleness clock started, with the block in the middle of a header. -/
def staleSystem : System where
  block := inState .hdr 17#16 0#16
  driver :=
    { par := hostParams, telemetryId := 244#16, period := 0x3E800000#32, offset := 0#32, now := 10001, lastData := none,
      staleFrom := 0, handle := some 3, running := true, failed := none, calls := [], sink := [], log := [] }

theorem witness_WatchdogRestartKeepsTheSyncState :
    staleSystem.block.input = [] ∧ staleSystem.driver.stale = true := by decide

/-- R133 and R134: startup opens, configures with 38400 baud, raw mode, 8N1 and no flow control; if that fails, the
application is told to terminate and the block gets no event. -/
theorem test_startup_config_failure :
    let y := staleSystem.acts (startupActs staleSystem.driver "/dev/gps" (some 5) .err)
    y.block = staleSystem.block ∧ y.driver.failed = some .transportConfigFailure ∧
    y.driver.calls = [.openPath "/dev/gps" (some 5),
      .configure (some 5) ⟨38400, true, 8, false, 1, false⟩ .err] := ⟨rfl, rfl, rfl⟩

/-- R133's `close`: the host holds no handle afterwards, and a later write answers Err. -/
theorem test_close :
    let d := (staleSystem.act .closeTransport).driver
    d.handle = none ∧ (d.react (.txFrame [0xAA#8])).calls = [.close (some 3), .write none [0xAA#8] .err] :=
  ⟨rfl, rfl⟩

/-- TX_FRAME, and an event that is none. -/
theorem witness_HostWritesEachFrameWithOneCall :
    (OutEvent.txFrame [0xAA#8] = .txFrame [0xAA#8]) ∧ (∀ bs, OutEvent.frameOk ≠ .txFrame bs) ∧
    (staleSystem.act .closeTransport).driver.handle = none := ⟨rfl, nofun, rfl⟩

/-- A short read and a whole one, on a running host with a handle. -/
theorem witness_ReadsBecomeReceiveEvents :
    ([] : List Byte).length ≤ 0 ∧ [0xAA#8].length ≤ 1 ∧ [0xAA#8].length ≤ 25 ∧
    staleSystem.driver.running = true ∧ staleSystem.driver.handle = some 3 := by decide

end Sys2Proof.Tests
end

/-! ## Scope: no input stops the block

A storing event finds `cnt` inside its buffer, because the invariant bounds `cnt` by the phase (10_state.md R18, R31);
every other instruction's meaning is a next state outright. So every instruction of the phase completes, and the decoder
hands a step no other. -/

namespace Sys2Proof

/-- The decoder reads RX_BYTE as the row of the phase. -/
theorem inPhase_rxByteInstr (ph : Phase) (b : Byte) : (rxByteInstr ph b).inPhase ph = true := by
  cases ph <;> rfl

/-- The decoder reads RX_TIMEOUT as the row of the phase. -/
theorem inPhase_rxTimeoutInstr (ph : Phase) : (rxTimeoutInstr ph).inPhase ph = true := by
  cases ph <;> rfl

/-- A row with a byte sequence as operand: if it is a row of the phase whatever the bytes, so is what is decoded. -/
theorem inPhase_of_map_operands {ph : Phase} {o : Option (List Byte × List Byte)} {f : List Byte → Instr}
    {i : Instr} {rest : List Byte} (hf : ∀ bs, (f bs).inPhase ph = true)
    (h : (o.map fun r => (f r.1, r.2)) = some (i, rest)) : i.inPhase ph = true := by
  obtain ⟨r, -, hr⟩ := Option.map_eq_some_iff.mp h
  cases hr
  exact hf r.1

/-- What an op byte and its operands decode to is a row of the phase: only RX_BYTE and RX_TIMEOUT depend on it. -/
theorem inPhase_of_decodeOperands {ph : Phase} {op : Byte} {bs rest : List Byte} {i : Instr}
    (h : decodeOperands ph op bs = some (i, rest)) : i.inPhase ph = true := by
  unfold decodeOperands at h
  split at h
  case h_1 =>
    split at h
    · cases h
      exact inPhase_rxByteInstr ph _
    · cases h
  case h_2 =>
    cases h
    exact inPhase_rxTimeoutInstr ph
  case h_3 =>
    split at h
    · exact inPhase_of_map_operands (fun _ => rfl) h
    · cases h
  case h_4 =>
    split at h
    · exact inPhase_of_map_operands (fun _ => rfl) h
    · cases h
  case h_5 =>
    split at h
    · cases h
      rfl
    · cases h
  case h_6 =>
    split at h
    · cases h
      rfl
    · cases h
  case h_7 =>
    cases h
    rfl
  case h_8 => cases h

/-- What the port's bytes decode to is a row of the phase. -/
theorem inPhase_of_decodeEvent {ph : Phase} {bs rest : List Byte} {i : Instr}
    (h : decodeEvent ph bs = .ok (i, rest)) : i.inPhase ph = true := by
  cases bs with
  | nil => cases h
  | cons op bs => exact inPhase_of_decodeOperands (decodeEvent_cons_ok.mp h)

end Sys2Proof

namespace Sys2Proof.Machine

/-! ### The phase's counter bound is an index of the phase's buffer (R31) -/

theorem counterOk_hdr_lt_cap {cnt plen : U16} (h : counterOk .hdr cnt plen) : cnt.toNat < BufName.hdrBuf.cap := h

theorem counterOk_pay_lt_cap {cnt plen : U16} (h : counterOk .pay cnt plen) : cnt.toNat < BufName.payBuf.cap :=
  Nat.lt_of_lt_of_le h (Nat.le_of_lt_succ plen.isLt)

theorem counterOk_cks_lt_cap {cnt plen : U16} (h : counterOk .cks cnt plen) : cnt.toNat < BufName.rxCrc.cap := h

/-! ### Every instruction of the phase completes -/

/-- A store inside the buffer, then a part that always completes, completes. -/
theorem storeByte_andThen_completes {n : BufName} {s : State} {f : State → Host.Outcome State Fault Refusal}
    (hc : s.cnt.toNat < n.cap) (b : Byte) (hf : ∀ u, ∃ t, f u = .next t) :
    ∃ t, andThen (storeByte n b s) f = .next t := by
  rw [storeByte_next hc, andThen_next]
  exact hf _

/-- The frame check always ends in a next state, accepting or rejecting (R87). -/
theorem frameCheck_completes (s : State) : ∃ t, frameCheck s = .next t := by
  rcases frameCheck_cases s with ⟨-, _, _, h⟩ | ⟨-, h⟩
  · exact ⟨_, h⟩
  · exact ⟨_, h⟩

/-- Where `cnt` is within its phase's bound, every instruction of the phase has a next state. The three storing events
need the bound; the other instructions have a next state in every state. -/
theorem exec_completes {s : State} (hc : counterOk s.phase s.cnt s.plen) {i : Instr}
    (hp : i.inPhase s.phase = true) : ∃ t, exec i s = .next t := by
  cases i with
  | rxByteHdr b =>
    have hph : s.phase = .hdr := eq_of_beq hp
    rw [hph] at hc
    exact storeByte_andThen_completes (counterOk_hdr_lt_cap hc) b fun _ => ⟨_, rfl⟩
  | rxBytePay b =>
    have hph : s.phase = .pay := eq_of_beq hp
    rw [hph] at hc
    exact storeByte_andThen_completes (counterOk_pay_lt_cap hc) b fun _ => ⟨_, rfl⟩
  | rxByteCks b =>
    have hph : s.phase = .cks := eq_of_beq hp
    rw [hph] at hc
    refine storeByte_andThen_completes (counterOk_cks_lt_cap hc) b fun u => ?_
    split
    · exact frameCheck_completes u
    · exact ⟨u, rfl⟩
  | _ => exact ⟨_, rfl⟩

/-! ### No step faults -/

/-- A step faults only where the event it fetched faults; an empty port and a refused event are no fault. -/
theorem step_eq_fault {s : State} {r : Fault} (h : step s = .fault r) :
    ∃ i rest, fetch s = .ok (i, rest) ∧ exec i (s.setInput rest) = .fault r := by
  unfold step at h
  split at h
  · next i rest hf => exact ⟨i, rest, hf, h⟩
  · cases h
  · cases h
  · cases h

/-- Where `cnt` is within its phase's bound, no step faults: the event fetched is a row of the phase, and taking its
bytes from the port leaves the counter and the phase alone. -/
theorem step_ne_fault {s : State} (hc : counterOk s.phase s.cnt s.plen) (r : Fault) : step s ≠ .fault r := by
  intro h
  obtain ⟨i, rest, hf, hx⟩ := step_eq_fault h
  obtain ⟨t, ht⟩ := exec_completes (s := s.setInput rest) hc (inPhase_of_decodeEvent hf)
  rw [ht] at hx
  cases hx

/-- Settles O5: the invariant's counter bound is all it needs. -/
theorem noInputStopsTheBlock : Obligations.NoInputStopsTheBlock := by
  unfold Obligations.NoInputStopsTheBlock
  intro s hs
  exact ⟨fun _ _ hp => exec_completes hs.counter hp, step_ne_fault hs.counter⟩

end Sys2Proof.Machine

/-! ## Scope: the state between steps

The invariant, what a step keeps at the ports, and what it emits (10_state.md). The three storing events are a store and
then a part of their own: `andThen_storeByte_eq_next` splits them there, and `State.stored` names the state between. -/

namespace Sys2Proof.Machine

/-! ### The state after a store (R83, R85, R86) -/

/-- The state after the received byte is stored at `cnt` of buffer `n`. -/
def State.stored (n : BufName) (b : Byte) (s : State) : State :=
  (s.setBuf n (Memory.write (s.buf n) s.cnt.toNat b)).setCnt (s.cnt + 1#16)

@[simp] theorem State.stored_params (n : BufName) (b : Byte) (s : State) : (s.stored n b).params = s.params := by
  simp [State.stored]
@[simp] theorem State.stored_phase (n : BufName) (b : Byte) (s : State) : (s.stored n b).phase = s.phase := by
  simp [State.stored]
@[simp] theorem State.stored_cnt (n : BufName) (b : Byte) (s : State) : (s.stored n b).cnt = s.cnt + 1#16 := rfl
@[simp] theorem State.stored_plen (n : BufName) (b : Byte) (s : State) : (s.stored n b).plen = s.plen := by
  simp [State.stored]
@[simp] theorem State.stored_input (n : BufName) (b : Byte) (s : State) : (s.stored n b).input = s.input := by
  simp [State.stored]
@[simp] theorem State.stored_output (n : BufName) (b : Byte) (s : State) : (s.stored n b).output = s.output := by
  simp [State.stored]
@[simp] theorem State.stored_draws (n : BufName) (b : Byte) (s : State) : (s.stored n b).draws = s.draws := by
  simp [State.stored]
theorem State.stored_buf_self (n : BufName) (b : Byte) (s : State) :
    (s.stored n b).buf n = Memory.write (s.buf n) s.cnt.toNat b := by
  simp [State.stored]
theorem State.stored_buf_ne {n k : BufName} (h : k ≠ n) (b : Byte) (s : State) : (s.stored n b).buf k = s.buf k := by
  rw [State.stored, State.setCnt_buf, State.setBuf_buf_ne n k _ s h]

/-- Inside its buffer `cnt` is counted up without wrapping. -/
theorem State.stored_cnt_toNat {n : BufName} {s : State} (hc : s.cnt.toNat < n.cap) (b : Byte) :
    (s.stored n b).cnt.toNat = s.cnt.toNat + 1 := by
  have hcap : n.cap ≤ 65535 := by cases n <;> decide
  rw [State.stored_cnt, BitVec.toNat_add, BitVec.toNat_ofNat]
  omega

/-- A store and then another part complete exactly where `cnt` is inside the buffer and the other part completes. -/
theorem andThen_storeByte_eq_next {n : BufName} {b : Byte} {s t : State}
    {f : State → Host.Outcome State Fault Refusal} :
    andThen (storeByte n b s) f = .next t ↔ s.cnt.toNat < n.cap ∧ f (s.stored n b) = .next t := by
  by_cases hc : s.cnt.toNat < n.cap
  · rw [storeByte_next hc, andThen_next]
    exact (and_iff_right hc).symm
  · rw [storeByte_fault hc, andThen_fault]
    simp [hc]

/-! ### The decode event, as a function of the state (R99 to R105) -/

/-- The event of a response with a navigation id, as P_RESP_NAV says (R104). -/
def State.respNavEvent (s : State) (id : U16) : OutEvent :=
  match s.params.respNav with
  | .unexpected => .unexpectedId id true
  | .decode => .navSample id s.navFields

/-- How many free values a response with a navigation id draws. -/
def respNavDraws (p : Params) : Nat :=
  match p.respNav with
  | .unexpected => 0
  | .decode => navDraws

theorem emitRespNav_eq (id : U16) (s : State) :
    emitRespNav id s = (s.emit [s.respNavEvent id]).addDraws (respNavDraws s.params) := by
  unfold emitRespNav State.respNavEvent respNavDraws
  cases s.params.respNav <;> rfl

theorem State.respNavEvent_cases (s : State) (id : U16) :
    s.respNavEvent id = .navSample id s.navFields ∨ s.respNavEvent id = .unexpectedId id true := by
  unfold State.respNavEvent
  cases s.params.respNav with
  | unexpected => exact .inr rfl
  | decode => exact .inl rfl

/-- The event the frame kind of a key emits. -/
def State.kindEvent (s : State) (k : Key) : OutEvent :=
  match rxKind k with
  | .logAck => .ack s.ackStatus (ackClass s.params s.ackStatus)
  | .nav244 => .navSample 244#16 s.navFields
  | .nav241 => .navSample 241#16 s.navFields
  | .nav1Quirk => .navSample 1#16 s.navFields
  | .resp244 => s.respNavEvent 244#16
  | .resp241 => s.respNavEvent 241#16
  | .unexpected => .unexpectedId (keyId k) (keyResp k)

/-- How many free values the frame kind of a key draws. -/
def kindDraws (p : Params) (k : Key) : Nat :=
  match rxKind k with
  | .logAck => 1
  | .nav244 | .nav241 | .nav1Quirk => navDraws
  | .resp244 | .resp241 => respNavDraws p
  | .unexpected => 0

/-- The dispatch emits the key's event and draws its free values, and does nothing else (R111). -/
theorem dispatchFrame_eq (k : Key) (s : State) :
    dispatchFrame k s = .next ((s.emit [s.kindEvent k]).addDraws (kindDraws s.params k)) := by
  unfold dispatchFrame State.kindEvent kindDraws
  cases rxKind k with
  | resp244 => exact congrArg _ (emitRespNav_eq _ s)
  | resp241 => exact congrArg _ (emitRespNav_eq _ s)
  | _ => rfl

/-- R112: a decode event is an acknowledgment, a sample or an unexpected id. -/
theorem State.kindEvent_cases (s : State) (k : Key) :
    (∃ st c, s.kindEvent k = .ack st c) ∨ (∃ id f, s.kindEvent k = .navSample id f) ∨
      (∃ id r, s.kindEvent k = .unexpectedId id r) := by
  have hresp (id : U16) : (∃ id' f, s.respNavEvent id = .navSample id' f) ∨
      (∃ id' r, s.respNavEvent id = .unexpectedId id' r) :=
    (s.respNavEvent_cases id).imp (fun h => ⟨_, _, h⟩) (fun h => ⟨_, _, h⟩)
  unfold State.kindEvent
  cases rxKind k with
  | logAck => exact .inl ⟨_, _, rfl⟩
  | nav244 => exact .inr (.inl ⟨_, _, rfl⟩)
  | nav241 => exact .inr (.inl ⟨_, _, rfl⟩)
  | nav1Quirk => exact .inr (.inl ⟨_, _, rfl⟩)
  | resp244 => exact .inr (hresp _)
  | resp241 => exact .inr (hresp _)
  | unexpected => exact .inr (.inr ⟨_, _, rfl⟩)

/-! ### The frame check, as a function of the state (R87 to R89) -/

/-- The state after a frame is accepted (R88). -/
def State.accepted (s : State) : State :=
  ((s.emit [.frameOk, s.gpsTimeEvent, s.kindEvent s.key]).addDraws (kindDraws s.params s.key)).hunt

theorem frameCheck_eq (s : State) :
    frameCheck s = .next (if s.computedCrc = s.receivedCrc then s.accepted else rejectFrame s) := by
  by_cases h : s.computedCrc = s.receivedCrc
  · rw [frameCheck, if_pos h, if_pos h, acceptFrame, decodeFrame, dispatchFrame_eq, andThen_next]
    simp only [State.emit_emit]
    rfl
  · rw [frameCheck, if_neg h, if_neg h]

/-! ### Every step keeps the invariant (R18, R19, R31) -/

/-- Each buffer of a state that meets the invariant is canonical within its range (R31). -/
theorem State.Inv.bufWf {s : State} (h : s.Inv) (n : BufName) : Memory.wf n.cap (s.buf n) = true := by
  cases n with
  | hdrBuf => exact h.hdrWf
  | payBuf => exact h.payWf
  | rxCrc => exact h.crcWf

/-- The invariant's buffer part, for all three buffers at once. -/
theorem State.Inv.of_bufWf {s : State} (hb : ∀ n : BufName, Memory.wf n.cap (s.buf n) = true)
    (hc : counterOk s.phase s.cnt s.plen) (hl : s.phase = .pay ∨ s.phase = .cks → s.plen = s.hdrPlen) : s.Inv :=
  ⟨hb .hdrBuf, hb .payBuf, hb .rxCrc, hc, hl⟩

/-- Where no payload and no checksum is collected, a counter at 0 is all the invariant asks beyond the buffers. -/
theorem State.Inv.of_cnt_zero {s : State} (hb : ∀ n : BufName, Memory.wf n.cap (s.buf n) = true)
    (hc : s.cnt = 0#16) (hp : s.phase ≠ .pay) (hk : s.phase ≠ .cks) : s.Inv := by
  refine .of_bufWf hb ?_ fun h => (h.elim hp hk).elim
  rw [hc]
  cases hph : s.phase with
  | pay => exact absurd hph hp
  | cks => exact absurd hph hk
  | hdr => exact (by decide : (0#16).toNat < 25)
  | _ => rfl

/-- At `cnt` 0 any phase that collects neither payload nor checksum keeps the invariant. -/
theorem State.Inv.setPhase {s : State} (h : s.Inv) {ph : Phase} (hc : s.cnt = 0#16) (hp : ph ≠ .pay)
    (hk : ph ≠ .cks) : (s.setPhase ph).Inv :=
  .of_cnt_zero (fun n => by simpa using h.bufWf n) hc hp hk

/-- What changes no part of the receive state keeps the invariant: it speaks of nothing else. -/
theorem State.Inv.of_rx_eq {s t : State} (h : s.Inv) (hrx : t.rx = s.rx) : t.Inv := by
  simp only [State.rx, RxState.mk.injEq] at hrx
  obtain ⟨hph, hcnt, hplen, hhdr, hpay, hcrc⟩ := hrx
  refine ⟨hhdr ▸ h.hdrWf, hpay ▸ h.payWf, hcrc ▸ h.crcWf, ?_, ?_⟩
  · rw [hph, hcnt, hplen]
    exact h.counter
  · rw [hph, hplen, State.hdrPlen, hhdr]
    exact h.plenRead

/-- A store inside the buffer keeps every buffer canonical. -/
theorem State.stored_bufWf {n : BufName} {s : State} (hb : ∀ k : BufName, Memory.wf k.cap (s.buf k) = true)
    (hc : s.cnt.toNat < n.cap) (b : Byte) (k : BufName) : Memory.wf k.cap ((s.stored n b).buf k) = true := by
  by_cases hk : k = n
  · subst hk
    rw [State.stored_buf_self]
    exact Memory.write_wf (hb k) hc b
  · rw [State.stored_buf_ne hk]
    exact hb k

/-- While hunting, the invariant's counter is 0 (R18). -/
theorem State.Inv.cnt_of_hunting {s : State} (h : s.Inv) (hp : s.phase = .hunt0 ∨ s.phase = .hunt1 ∨ s.phase = .hunt2) :
    s.cnt = 0#16 := by
  have hc := h.counter
  rcases hp with hp | hp | hp <;> rw [hp] at hc <;> exact hc

/-- Header complete (R84): the payload, or with length 0 the checksum, starts at `cnt` 0, with `plen` as just read. -/
theorem headerComplete_inv {s : State} (hb : ∀ n : BufName, Memory.wf n.cap (s.buf n) = true) :
    (headerComplete s).Inv := by
  refine .of_bufWf (fun n => by simpa [headerComplete] using hb n) ?_ fun _ => rfl
  by_cases h0 : s.hdrPlen = 0#16
  · rw [headerComplete, if_pos h0]
    exact (by decide : (0#16).toNat < 4)
  · rw [headerComplete, if_neg h0]
    show (0#16).toNat < s.hdrPlen.toNat
    simp only [BitVec.toNat_eq, BitVec.toNat_ofNat] at h0 ⊢
    omega

/-- RX_BYTE in HDR keeps the invariant (R83, R84). -/
theorem rxByteHdr_keeps_inv {s t : State} {b : Byte} (hi : s.Inv) (hp : s.phase = .hdr)
    (h : exec (.rxByteHdr b) s = .next t) : t.Inv := by
  obtain ⟨hc, ht⟩ := andThen_storeByte_eq_next.mp h
  have hb := State.stored_bufWf hi.bufWf hc b
  have hn := State.stored_cnt_toNat hc b
  obtain rfl := Host.Outcome.next.inj ht
  split
  · exact headerComplete_inv hb
  · next hne =>
    refine .of_bufWf hb ?_ (by simp [hp])
    rw [State.stored_phase, hp]
    show (s.stored .hdrBuf b).cnt.toNat < 25
    have hcap : s.cnt.toNat < 25 := hc
    simp only [BitVec.toNat_eq, BitVec.toNat_ofNat] at hne
    omega

/-- RX_BYTE in PAY keeps the invariant (R85). -/
theorem rxBytePay_keeps_inv {s t : State} {b : Byte} (hi : s.Inv) (hp : s.phase = .pay)
    (h : exec (.rxBytePay b) s = .next t) : t.Inv := by
  obtain ⟨hc, ht⟩ := andThen_storeByte_eq_next.mp h
  have hb := State.stored_bufWf hi.bufWf hc b
  have hn := State.stored_cnt_toNat hc b
  have hplen : s.plen = s.hdrPlen := hi.plenRead (.inl hp)
  obtain rfl := Host.Outcome.next.inj ht
  split
  · exact .of_bufWf (fun n => by simpa using hb n) (by decide : (0#16).toNat < 4) fun _ => hplen
  · next hne =>
    refine .of_bufWf hb ?_ fun _ => hplen
    have hlt := hi.counter
    rw [hp] at hlt
    rw [State.stored_phase, hp]
    show (s.stored .payBuf b).cnt.toNat < s.plen.toNat
    have hlt' : s.cnt.toNat < s.plen.toNat := hlt
    simp only [BitVec.toNat_eq, State.stored_plen] at hne
    omega

/-- The frame check ends in HUNT0 with `cnt` 0, accepting or rejecting, and writes no buffer (R88, R89, R111). -/
theorem frameCheck_inv {s t : State} (hb : ∀ n : BufName, Memory.wf n.cap (s.buf n) = true)
    (h : frameCheck s = .next t) : t.Inv := by
  rw [frameCheck_eq] at h
  obtain rfl := Host.Outcome.next.inj h
  split
  · exact .of_cnt_zero (fun n => by simpa [State.accepted] using hb n) rfl nofun nofun
  · exact .of_cnt_zero (fun n => by simpa [rejectFrame] using hb n) rfl nofun nofun

/-- RX_BYTE in CKS keeps the invariant (R86). -/
theorem rxByteCks_keeps_inv {s t : State} {b : Byte} (hi : s.Inv) (hp : s.phase = .cks)
    (h : exec (.rxByteCks b) s = .next t) : t.Inv := by
  obtain ⟨hc, ht⟩ := andThen_storeByte_eq_next.mp h
  have hb := State.stored_bufWf hi.bufWf hc b
  have hn := State.stored_cnt_toNat hc b
  split at ht
  · exact frameCheck_inv hb ht
  · next hne =>
    obtain rfl := Host.Outcome.next.inj ht
    refine .of_bufWf hb ?_ fun _ => hi.plenRead (.inr hp)
    rw [State.stored_phase, hp]
    show (s.stored .rxCrc b).cnt.toNat < 4
    have hcap : s.cnt.toNat < 4 := hc
    simp only [BitVec.toNat_eq, BitVec.toNat_ofNat] at hne
    omega

/-- Every instruction of the phase keeps the invariant. -/
theorem exec_keeps_inv {s t : State} {i : Instr} (hi : s.Inv) (hp : i.inPhase s.phase = true)
    (h : exec i s = .next t) : t.Inv := by
  cases i with
  | rxByteHdr b => exact rxByteHdr_keeps_inv hi (eq_of_beq hp) h
  | rxBytePay b => exact rxBytePay_keeps_inv hi (eq_of_beq hp) h
  | rxByteCks b => exact rxByteCks_keeps_inv hi (eq_of_beq hp) h
  | rxByteHunt0 b =>
    have hc := hi.cnt_of_hunting (.inl (eq_of_beq hp))
    obtain rfl := Host.Outcome.next.inj h
    split
    · exact hi.setPhase hc nofun nofun
    · exact hi.setPhase hc nofun nofun
  | rxByteHunt1 b =>
    have hc := hi.cnt_of_hunting (.inr (.inl (eq_of_beq hp)))
    obtain rfl := Host.Outcome.next.inj h
    split
    · exact hi.setPhase hc nofun nofun
    · split
      · exact hi.setPhase hc nofun nofun
      · exact hi.setPhase hc nofun nofun
  | rxByteHunt2 b =>
    have hc := hi.cnt_of_hunting (.inr (.inr (eq_of_beq hp)))
    obtain rfl := Host.Outcome.next.inj h
    split
    · exact .of_cnt_zero (fun n => by simpa using hi.bufWf n) rfl nofun nofun
    · exact hi.setPhase hc nofun nofun
  | rxTimeoutCollect =>
    obtain rfl := Host.Outcome.next.inj h
    exact .of_cnt_zero (fun n => by simpa using hi.bufWf n) rfl nofun nofun
  | reset =>
    obtain rfl := Host.Outcome.next.inj h
    exact .of_cnt_zero (fun n => by simpa using hi.bufWf n) rfl nofun nofun
  | resp244 ty =>
    obtain rfl := Host.Outcome.next.inj h
    rw [emitRespNav_eq]
    exact hi.of_rx_eq rfl
  | resp241 ty =>
    obtain rfl := Host.Outcome.next.inj h
    rw [emitRespNav_eq]
    exact hi.of_rx_eq rfl
  | _ =>
    obtain rfl := Host.Outcome.next.inj h
    exact hi.of_rx_eq rfl

/-- A step keeps the invariant: it is idle, or runs an event of the phase. -/
theorem step_keeps_inv {s t : State} (hi : s.Inv) (h : step s = .next t) : t.Inv := by
  rcases step_cases h with ⟨-, rfl⟩ | ⟨i, rest, hf, hx⟩
  · exact hi
  · exact exec_keeps_inv (s := s.setInput rest) (hi.of_rx_eq rfl) (inPhase_of_decodeEvent hf) hx

/-- Settles O4: `exec_keeps_inv` for the event the step fetched. -/
theorem everyStepKeepsTheInvariant : Obligations.EveryStepKeepsTheInvariant := by
  unfold Obligations.EveryStepKeepsTheInvariant
  exact fun _ _ => step_keeps_inv

/-- Settles O3. -/
theorem invariantHoldsAtReset : Obligations.InvariantHoldsAtReset := by
  unfold Obligations.InvariantHoldsAtReset
  exact .of_cnt_zero (fun n => by cases n <;> rfl) rfl nofun nofun

/-- Settles O1. -/
theorem resetStateHasTheSpecifiedValues : Obligations.ResetStateHasTheSpecifiedValues := by
  unfold Obligations.ResetStateHasTheSpecifiedValues
  exact ⟨rfl, rfl, rfl, rfl, rfl⟩

end Sys2Proof.Machine

/-! ## Scope: what a step takes from the port

The bytes the event decoder takes are the encoding of the instruction it gives (30_encoding.md R63), because the little-
endian conversions are inverse to each other (20_memory.md R34). -/

namespace Sys2Proof

/-- The number that bytes stand for fits in them. -/
theorem leNat_lt {bs : List Byte} {n : Nat} (hn : bs.length = n) : leNat bs < 2 ^ (8 * n) := by
  induction bs generalizing n with
  | nil => exact Nat.two_pow_pos _
  | cons b bs ih =>
    have hb := b.isLt
    have hbs := ih rfl
    rw [← hn, leNat, List.length_cons, Nat.mul_succ, Nat.pow_add]
    omega

/-- R34: writing out the number that bytes stand for gives the bytes. -/
theorem leBytes_leNat (bs : List Byte) : leBytes bs.length (leNat bs) = bs := by
  induction bs with
  | nil => rfl
  | cons b bs ih =>
    have hb := b.isLt
    have hhead : BitVec.ofNat 8 (b.toNat + 256 * leNat bs) = b := by
      rw [BitVec.toNat_eq, BitVec.toNat_ofNat]
      omega
    have htail : (b.toNat + 256 * leNat bs) / 256 = leNat bs := by omega
    rw [List.length_cons, leNat, leBytes, hhead, htail, ih]

/-- The bytes of a u16 operand. -/
theorem leBytes_u16Of (b0 b1 : Byte) : leBytes 2 (u16Of b0 b1).toNat = [b0, b1] := by
  rw [u16Of, BitVec.toNat_ofNat, Nat.mod_eq_of_lt (leNat_lt (n := 2) rfl)]
  exact leBytes_leNat [b0, b1]

/-- The bytes of a u32 operand. -/
theorem leBytes_u32Of (b0 b1 b2 b3 : Byte) : leBytes 4 (u32Of b0 b1 b2 b3).toNat = [b0, b1, b2, b3] := by
  rw [u32Of, BitVec.toNat_ofNat, Nat.mod_eq_of_lt (leNat_lt (n := 4) rfl)]
  exact leBytes_leNat [b0, b1, b2, b3]

/-- Taking `n` bytes splits the list there. -/
theorem takeBytes_eq_some {n : Nat} {bs a rest : List Byte} (h : takeBytes n bs = some (a, rest)) :
    a.length = n ∧ bs = a ++ rest := by
  unfold takeBytes at h
  split at h
  · next hn =>
    cases h
    exact ⟨by simp [hn], (List.take_append_drop n bs).symm⟩
  · cases h

/-- The port's bytes are the encoding of this well-formed input event, and then the rest. -/
def TakenFrom (p : Params) (bs : List Byte) (i : Instr) (rest : List Byte) : Prop :=
  bs = encode p i ++ rest ∧ i.wf = true ∧ i.format = .portOp

/-- RX_BYTE is one op byte and the byte received, in every phase. -/
theorem takenFrom_rxByteInstr (p : Params) (ph : Phase) (b : Byte) (rest : List Byte) :
    TakenFrom p (0x00#8 :: b :: rest) (rxByteInstr ph b) rest := by
  cases ph <;> exact ⟨rfl, rfl, rfl⟩

/-- RX_TIMEOUT is one op byte, in every phase. -/
theorem takenFrom_rxTimeoutInstr (p : Params) (ph : Phase) (rest : List Byte) :
    TakenFrom p (0x01#8 :: rest) (rxTimeoutInstr ph) rest := by
  cases ph <;> exact ⟨rfl, rfl, rfl⟩

/-- A byte sequence with its u16 length before it, as the decoder reads it: the length is the sequence's own. -/
theorem sequence_operand {n0 n1 : Byte} {more rest : List Byte} {f : List Byte → Instr} {i : Instr}
    (h : ((takeBytes (u16Of n0 n1).toNat more).map fun r => (f r.1, r.2)) = some (i, rest)) :
    ∃ a, i = f a ∧ more = a ++ rest ∧ leBytes 2 a.length = [n0, n1] ∧ lengthOk a = true := by
  obtain ⟨⟨a, r⟩, ht, hr⟩ := Option.map_eq_some_iff.mp h
  obtain ⟨hlen, hmore⟩ := takeBytes_eq_some ht
  cases hr
  refine ⟨a, rfl, hmore, by rw [hlen, leBytes_u16Of], ?_⟩
  have hlt := (u16Of n0 n1).isLt
  exact decide_eq_true (by omega)

/-- What an op byte and its operands decode to has these bytes as its encoding. -/
theorem takenFrom_of_decodeOperands (p : Params) {ph : Phase} {op : Byte} {bs rest : List Byte} {i : Instr}
    (h : decodeOperands ph op bs = some (i, rest)) : TakenFrom p (op :: bs) i rest := by
  have hop {n : Nat} (hn : op.toNat = n) : op = BitVec.ofNat 8 n := by
    rw [← hn, BitVec.ofNat_toNat, BitVec.setWidth_eq]
  unfold decodeOperands at h
  split at h
  case h_1 hn =>
    rw [hop hn]
    split at h
    · cases h
      exact takenFrom_rxByteInstr p ph _ _
    · cases h
  case h_2 hn =>
    rw [hop hn]
    cases h
    exact takenFrom_rxTimeoutInstr p ph _
  case h_3 hn =>
    rw [hop hn]
    split at h
    · obtain ⟨a, rfl, hmore, hlen, hok⟩ := sequence_operand h
      exact ⟨by simp [encode, hlen, hmore], hok, rfl⟩
    · cases h
  case h_4 hn =>
    rw [hop hn]
    split at h
    · obtain ⟨a, rfl, hmore, hlen, hok⟩ := sequence_operand h
      exact ⟨by simp [encode, hlen, hmore, leBytes_u16Of], hok, rfl⟩
    · cases h
  case h_5 hn =>
    rw [hop hn]
    split at h
    · cases h
      exact ⟨by simp [encode, leBytes_u16Of], rfl, rfl⟩
    · cases h
  case h_6 hn =>
    rw [hop hn]
    split at h
    · cases h
      exact ⟨by simp [encode, leBytes_u16Of, leBytes_u32Of], rfl, rfl⟩
    · cases h
  case h_7 hn =>
    rw [hop hn]
    cases h
    exact ⟨rfl, rfl, rfl⟩
  case h_8 => cases h

/-- What the event decoder takes is the encoding of the instruction it gives. -/
theorem takenFrom_of_decodeEvent (p : Params) {ph : Phase} {bs rest : List Byte} {i : Instr}
    (h : decodeEvent ph bs = .ok (i, rest)) : TakenFrom p bs i rest := by
  cases bs with
  | nil => cases h
  | cons op bs => exact takenFrom_of_decodeOperands p (decodeEvent_cons_ok.mp h)

end Sys2Proof

namespace Sys2Proof.Machine

/-! ### An instruction writes neither parameters nor input port (R26, R78) -/

theorem frameCheck_keeps_ports {s t : State} (h : frameCheck s = .next t) :
    t.params = s.params ∧ t.input = s.input := by
  rw [frameCheck_eq] at h
  obtain rfl := Host.Outcome.next.inj h
  split <;> exact ⟨rfl, rfl⟩

/-- Only the step itself takes from the input port, and nothing writes the parameters. -/
theorem exec_keeps_ports {i : Instr} {s t : State} (h : exec i s = .next t) :
    t.params = s.params ∧ t.input = s.input := by
  cases i with
  | rxByteHdr b =>
    obtain ⟨-, ht⟩ := andThen_storeByte_eq_next.mp h
    obtain rfl := Host.Outcome.next.inj ht
    split <;> exact ⟨rfl, rfl⟩
  | rxBytePay b =>
    obtain ⟨-, ht⟩ := andThen_storeByte_eq_next.mp h
    obtain rfl := Host.Outcome.next.inj ht
    split <;> exact ⟨rfl, rfl⟩
  | rxByteCks b =>
    obtain ⟨-, ht⟩ := andThen_storeByte_eq_next.mp h
    split at ht
    · exact frameCheck_keeps_ports (s := s.stored .rxCrc b) ht
    · obtain rfl := Host.Outcome.next.inj ht
      exact ⟨rfl, rfl⟩
  | rxByteHunt2 b =>
    obtain rfl := Host.Outcome.next.inj h
    split <;> exact ⟨rfl, rfl⟩
  | resp244 ty =>
    obtain rfl := Host.Outcome.next.inj h
    rw [emitRespNav_eq]
    exact ⟨rfl, rfl⟩
  | resp241 ty =>
    obtain rfl := Host.Outcome.next.inj h
    rw [emitRespNav_eq]
    exact ⟨rfl, rfl⟩
  | _ =>
    obtain rfl := Host.Outcome.next.inj h
    exact ⟨rfl, rfl⟩

/-! ### The events an instruction emits, as a function of the state (R25, R112) -/

/-- The events of the frame check (R88, R89). -/
def State.checkEvents (s : State) : List OutEvent :=
  if s.computedCrc = s.receivedCrc then [.frameOk, s.gpsTimeEvent, s.kindEvent s.key]
  else [.checksumMismatch s.computedCrc s.receivedCrc]

/-- The events of an instruction. RX_BYTE in CKS emits with the fourth checksum byte, from the state it is stored in. -/
def State.eventsOf (s : State) : Instr → List OutEvent
  | .rxByteHunt0 _ | .rxByteHunt1 _ | .rxByteHunt2 _ | .rxByteHdr _ | .rxBytePay _ | .rxTimeoutHunt | .reset => []
  | .rxByteCks b => if (s.stored .rxCrc b).cnt = 4#16 then (s.stored .rxCrc b).checkEvents else []
  | .rxTimeoutCollect => [.shortRead s.phase s.cnt]
  | .crcCompute bs => [.crcResult (crc s.params bs)]
  | .encFrame id bs => [.txFrame (frame s.params id bs)]
  | .encStopLog uid | .cmdStopLog uid => [.txFrame (frame s.params stopLogId (stopLogPayload s.params uid))]
  | .encStartLog lid per off | .cmdStartLog lid per off =>
    [.txFrame (frame s.params startLogId (startLogPayload s.params lid per off))]
  | .logAck _ => [.ack s.ackStatus (ackClass s.params s.ackStatus)]
  | .nav244 _ => [.navSample 244#16 s.navFields]
  | .nav241 _ => [.navSample 241#16 s.navFields]
  | .nav1Quirk _ => [.navSample 1#16 s.navFields]
  | .resp244 _ => [s.respNavEvent 244#16]
  | .resp241 _ => [s.respNavEvent 241#16]
  | .unexpected id r _ => [.unexpectedId id r]

/-- They are events the port allows. -/
theorem State.eventsOf_allowed (s : State) (i : Instr) : allowedEvents s i (s.eventsOf i) := by
  cases i with
  | rxByteCks b =>
    have h4 : (s.stored .rxCrc b).cnt = 4#16 ↔ s.cnt = 3#16 := by
      rw [State.stored_cnt]
      constructor <;> intro h <;> bv_omega
    simp only [State.eventsOf, allowedEvents, h4]
    split
    · unfold State.checkEvents
      split
      · exact .inr ⟨_, _, _, _, rfl, State.kindEvent_cases _ _⟩
      · next hne => exact .inl ⟨_, _, hne, rfl⟩
    · rfl
  | rxTimeoutCollect => exact ⟨_, _, rfl⟩
  | logAck ty => exact ⟨_, _, rfl⟩
  | resp244 ty => exact (s.respNavEvent_cases _).imp (fun h => ⟨_, congrArg ([·]) h⟩) (congrArg ([·]))
  | resp241 ty => exact (s.respNavEvent_cases _).imp (fun h => ⟨_, congrArg ([·]) h⟩) (congrArg ([·]))
  | crcCompute bs => exact ⟨_, rfl⟩
  | encFrame id bs => exact ⟨_, rfl⟩
  | encStopLog uid => exact ⟨_, rfl⟩
  | encStartLog lid per off => exact ⟨_, rfl⟩
  | cmdStopLog uid => exact ⟨_, rfl⟩
  | cmdStartLog lid per off => exact ⟨_, rfl⟩
  | nav244 ty => exact ⟨_, rfl⟩
  | nav241 ty => exact ⟨_, rfl⟩
  | nav1Quirk ty => exact ⟨_, rfl⟩
  | _ => rfl

/-! ### What has been emitted does not feed back (R14, R42) -/

/-- The state with another history of events emitted. -/
def State.withOutput (out : List OutEvent) (s : State) : State := { s with output := out }

/-- A meaning appends these events to the output port, and does the same whatever events are already there. -/
def Emits (f : State → Host.Outcome State Fault Refusal) (evs : State → List OutEvent) : Prop :=
  ∀ s t out, f s = .next t → f (s.withOutput out) = .next (t.withOutput (out ++ evs s))

/-- The events are appended to those the state itself has: nothing emitted is withdrawn. -/
theorem Emits.output {f : State → Host.Outcome State Fault Refusal} {evs : State → List OutEvent} (hf : Emits f evs)
    {s t : State} (h : f s = .next t) : t.output = s.output ++ evs s := by
  have hs := hf s t s.output h
  rw [show s.withOutput s.output = s from rfl, h] at hs
  exact congrArg State.output (Host.Outcome.next.inj hs)

/-- An update that always completes emits the events it adds to any output. -/
theorem emits_next {g : State → State} {evs : State → List OutEvent}
    (h : ∀ s out, g (s.withOutput out) = (g s).withOutput (out ++ evs s)) : Emits (fun s => .next (g s)) evs := by
  rintro s t out ⟨⟩
  exact congrArg _ (h s out)

/-- An update that commutes with replacing the output emits nothing. -/
theorem emits_nothing {g : State → State} (h : ∀ s out, g (s.withOutput out) = (g s).withOutput out) :
    Emits (fun s => .next (g s)) fun _ => [] :=
  emits_next fun s out => by rw [List.append_nil, h]

/-- A store emits nothing: with another part after it, the events are that part's. -/
theorem Emits.after_storeByte {n : BufName} {b : Byte} {f : State → Host.Outcome State Fault Refusal}
    {evs : State → List OutEvent} (hf : Emits f evs) :
    Emits (fun s => andThen (storeByte n b s) f) fun s => evs (s.stored n b) := by
  intro s t out h
  obtain ⟨hc, ht⟩ := andThen_storeByte_eq_next.mp h
  refine andThen_storeByte_eq_next.mpr ⟨hc, ?_⟩
  have hs : (s.withOutput out).stored n b = (s.stored n b).withOutput out := by cases n <;> rfl
  rw [hs]
  exact hf _ _ out ht

theorem frameCheck_emits : Emits frameCheck State.checkEvents := by
  rw [funext frameCheck_eq]
  refine emits_next fun s out => ?_
  unfold State.checkEvents
  by_cases hc : s.computedCrc = s.receivedCrc
  · rw [if_pos hc, if_pos hc]
    exact if_pos hc
  · rw [if_neg hc, if_neg hc]
    exact if_neg hc

theorem emitRespNav_emits (id : U16) : Emits (fun s => .next (emitRespNav id s)) fun s => [s.respNavEvent id] := by
  simp only [emitRespNav_eq]
  exact emits_next fun _ _ => rfl

/-- Every instruction emits the events `eventsOf` gives. -/
theorem exec_emits (i : Instr) : Emits (exec i) (·.eventsOf i) := by
  cases i with
  | rxByteHdr b =>
    exact (emits_nothing fun u out =>
      (apply_ite (State.withOutput out) (u.cnt = 25#16) (headerComplete u) u).symm).after_storeByte
  | rxBytePay b =>
    exact (emits_nothing fun u out =>
      (apply_ite (State.withOutput out) (u.cnt = u.plen) ((u.setCnt 0#16).setPhase .cks) u).symm).after_storeByte
  | rxByteCks b =>
    refine Emits.after_storeByte (f := fun t => if t.cnt = 4#16 then frameCheck t else .next t)
      (evs := fun t => if t.cnt = 4#16 then t.checkEvents else []) fun u t out h => ?_
    by_cases hc : u.cnt = 4#16
    · simp only [if_pos hc] at h ⊢
      exact (if_pos hc).trans (frameCheck_emits u t out h)
    · simp only [if_neg hc] at h ⊢
      refine (if_neg hc).trans ?_
      rw [← Host.Outcome.next.inj h, List.append_nil]
  | rxByteHunt0 b => exact emits_nothing fun _ _ => rfl
  | rxByteHunt1 b => exact emits_nothing fun _ _ => rfl
  | rxByteHunt2 b =>
    exact emits_nothing fun s out =>
      (apply_ite (State.withOutput out) (b = 0x12#8) ((s.setPhase .hdr).setCnt 0#16) (s.setPhase .hunt0)).symm
  | rxTimeoutHunt => exact emits_nothing fun _ _ => rfl
  | reset => exact emits_nothing fun _ _ => rfl
  | resp244 ty => exact emitRespNav_emits _
  | resp241 ty => exact emitRespNav_emits _
  | _ => exact emits_next fun _ _ => rfl

/-! ### A step, by what was fetched -/

theorem step_of_noEvent {s : State} (h : fetch s = .error .noEvent) : step s = .next s := by
  rw [step, h]

theorem step_of_fetch {s : State} {i : Instr} {rest : List Byte} (h : fetch s = .ok (i, rest)) :
    step s = exec i (s.setInput rest) := by
  rw [step, h]

/-! ### The obligations about the ports -/

/-- Settles O26: `eventsOf` gives the events, and they are allowed. -/
theorem eachEventEmitsWhatThePortAllows : Obligations.EachEventEmitsWhatThePortAllows := by
  unfold Obligations.EachEventEmitsWhatThePortAllows
  exact fun s t i h => ⟨s.eventsOf i, (exec_emits i).output h, s.eventsOf_allowed i⟩

/-- Settles O25: the fetch reads the input port only, and the event fetched emits the same whatever was emitted. -/
theorem emittedEventsDoNotFeedBack : Obligations.EmittedEventsDoNotFeedBack := by
  unfold Obligations.EmittedEventsDoNotFeedBack
  intro s t out h
  rcases step_cases h with ⟨hf, rfl⟩ | ⟨i, rest, hf, hx⟩
  · refine ⟨[], (List.append_nil _).symm, ?_⟩
    rw [List.append_nil]
    exact step_of_noEvent hf
  · refine ⟨(s.setInput rest).eventsOf i, (exec_emits i).output (s := s.setInput rest) hx, ?_⟩
    exact (step_of_fetch (s := s.withOutput out) hf).trans (exec_emits i _ _ out hx)

/-- Settles O24: the step's bytes are the encoding of the event fetched, and the event's meaning leaves the rest of the
input, the parameters and the events already emitted. -/
theorem stepTakesOneEventAndKeepsThePorts : Obligations.StepTakesOneEventAndKeepsThePorts := by
  unfold Obligations.StepTakesOneEventAndKeepsThePorts
  intro s t h
  rcases step_cases h with ⟨hf, rfl⟩ | ⟨i, rest, hf, hx⟩
  · exact ⟨rfl, List.prefix_refl _, .inl ⟨decodeEvent_noEvent_iff.mp hf, rfl⟩⟩
  · obtain ⟨hparams, hinput⟩ := exec_keeps_ports hx
    obtain ⟨hbytes, hwf, hformat⟩ := takenFrom_of_decodeEvent s.params hf
    obtain rfl : t.input = rest := hinput
    exact ⟨hparams, ⟨_, ((exec_emits i).output hx).symm⟩,
      .inr ⟨i, hwf, hformat, inPhase_of_decodeEvent hf, hbytes, hx⟩⟩

end Sys2Proof.Machine

/-! ## Scope: what the parser has not received never shows (10_state.md R29, 70_reset_and_hazards.md R146)

Two blocks are alike when they differ only where the frame being collected has not written yet: in buffer bytes from
`State.filled` on, and in `plen` before the header is complete. Every event keeps this, and every decision and every
event emitted reads written bytes only. -/

namespace Sys2Proof.Machine

/-! ### Buffers that read alike below an index -/

/-- The two buffers read alike at every index below `n`. -/
def Memory.sameBelow (n : Nat) (m m' : Memory) : Prop := ∀ a, a < n → Memory.read m' a = Memory.read m a

theorem Memory.sameBelow_zero (m m' : Memory) : Memory.sameBelow 0 m m' := fun _ ha => absurd ha (Nat.not_lt_zero _)

/-- Writing the same byte at the end of the common part makes it one longer. -/
theorem Memory.sameBelow.write {cap n : Nat} {m m' : Memory} (h : Memory.sameBelow n m m') (hm : Memory.wf cap m = true)
    (hm' : Memory.wf cap m' = true) (b : Byte) :
    Memory.sameBelow (n + 1) (Memory.write m n b) (Memory.write m' n b) := by
  intro a ha
  by_cases han : a = n
  · rw [han, Memory.read_write_self hm, Memory.read_write_self hm']
  · rw [Memory.read_write_ne han, Memory.read_write_ne han]
    exact h a (by omega)

/-- Slices inside the common part are equal. -/
theorem Memory.sameBelow.slice_eq {n : Nat} {m m' : Memory} (h : Memory.sameBelow n m m') {o k : Nat}
    (hk : o + k ≤ n) : Memory.slice m' o k = Memory.slice m o k :=
  Memory.slice_congr fun a _ ha => h a (by omega)

/-! Numbers read inside the common part are equal (R10). -/

section LittleEndian

variable {n o : Nat} {m m' : Memory}

theorem Memory.sameBelow.le1_eq (h : Memory.sameBelow n m m') (ho : o + 1 ≤ n) : le1 m' o = le1 m o := h o ho

theorem Memory.sameBelow.le2_eq (h : Memory.sameBelow n m m') (ho : o + 2 ≤ n) : le2 m' o = le2 m o := by
  rw [le2, le2, h.slice_eq ho]

theorem Memory.sameBelow.le3_eq (h : Memory.sameBelow n m m') (ho : o + 3 ≤ n) : le3 m' o = le3 m o := by
  rw [le3, le3, h.slice_eq ho]

theorem Memory.sameBelow.le4_eq (h : Memory.sameBelow n m m') (ho : o + 4 ≤ n) : le4 m' o = le4 m o := by
  rw [le4, le4, h.slice_eq ho]

theorem Memory.sameBelow.le8_eq (h : Memory.sameBelow n m m') (ho : o + 8 ≤ n) : le8 m' o = le8 m o := by
  rw [le8, le8, h.slice_eq ho]

end LittleEndian

/-! ### Alike states -/

/-- How many bytes of each buffer the frame being collected has written (R83, R85, R86). -/
def State.filled (s : State) : BufName → Nat
  | .hdrBuf =>
    match s.phase with
    | .hunt0 | .hunt1 | .hunt2 => 0
    | .hdr => s.cnt.toNat
    | .pay | .cks => 25
  | .payBuf =>
    match s.phase with
    | .hunt0 | .hunt1 | .hunt2 | .hdr => 0
    | .pay => s.cnt.toNat
    | .cks => s.plen.toNat
  | .rxCrc =>
    match s.phase with
    | .hunt0 | .hunt1 | .hunt2 | .hdr | .pay => 0
    | .cks => s.cnt.toNat

/-- What is not the receive state (R14): parameters, ports and the count of free values. -/
def State.surroundings (s : State) : Params × List Byte × List OutEvent × Nat := (s.params, s.input, s.output, s.draws)

/-- Two states that differ only in what the frame being collected has not written yet. -/
structure State.Alike (s s' : State) : Prop where
  surroundings : s'.surroundings = s.surroundings
  phase : s'.phase = s.phase
  cnt : s'.cnt = s.cnt
  plen : s.phase = .pay ∨ s.phase = .cks → s'.plen = s.plen
  received : ∀ n, Memory.sameBelow (s.filled n) (s.buf n) (s'.buf n)

theorem State.Alike.params {s s' : State} (h : s.Alike s') : s'.params = s.params := congrArg (·.1) h.surroundings
theorem State.Alike.input {s s' : State} (h : s.Alike s') : s'.input = s.input := congrArg (·.2.1) h.surroundings
theorem State.Alike.output {s s' : State} (h : s.Alike s') : s'.output = s.output := congrArg (·.2.2.1) h.surroundings
theorem State.Alike.draws {s s' : State} (h : s.Alike s') : s'.draws = s.draws := congrArg (·.2.2.2) h.surroundings

theorem State.surroundings_emit {s s' : State} (h : s'.surroundings = s.surroundings) (evs : List OutEvent) :
    (s'.emit evs).surroundings = (s.emit evs).surroundings := by
  simp only [State.surroundings, Prod.mk.injEq] at h
  simp [State.surroundings, h]

theorem State.surroundings_addDraws {s s' : State} (h : s'.surroundings = s.surroundings) (n : Nat) :
    (s'.addDraws n).surroundings = (s.addDraws n).surroundings := by
  simp only [State.surroundings, Prod.mk.injEq] at h
  simp [State.surroundings, h]

/-- Before the first header byte nothing of a frame is written: nothing is asked of buffers and `plen`. -/
theorem State.Alike.of_nothing_received {s s' : State} (hs : s'.surroundings = s.surroundings)
    (hph : s'.phase = s.phase) (hcnt : s'.cnt = s.cnt) (hc : s.cnt = 0#16) (hp : s.phase ≠ .pay)
    (hk : s.phase ≠ .cks) : s.Alike s' := by
  refine ⟨hs, hph, hcnt, fun h => (h.elim hp hk).elim, fun n => ?_⟩
  have h0 : s.filled n = 0 := by
    cases hq : s.phase with
    | pay => exact absurd hq hp
    | cks => exact absurd hq hk
    | _ => cases n <;> simp [State.filled, hq, hc]
  rw [h0]
  exact Memory.sameBelow_zero _ _

@[simp] theorem State.filled_emit (evs : List OutEvent) (s : State) (n : BufName) :
    (s.emit evs).filled n = s.filled n := by
  cases n <;> rfl
@[simp] theorem State.filled_setInput (bs : List Byte) (s : State) (n : BufName) :
    (s.setInput bs).filled n = s.filled n := by
  cases n <;> rfl

/-- Alike states emit alike. -/
theorem State.Alike.emit {s s' : State} (h : s.Alike s') (evs : List OutEvent) : (s.emit evs).Alike (s'.emit evs) :=
  ⟨State.surroundings_emit h.surroundings evs, h.phase, h.cnt, h.plen, fun n => by simpa using h.received n⟩

/-- Alike states stay alike when the same input is taken. -/
theorem State.Alike.setInput {s s' : State} (h : s.Alike s') (bs : List Byte) :
    (s.setInput bs).Alike (s'.setInput bs) := by
  refine ⟨?_, h.phase, h.cnt, h.plen, fun n => by simpa using h.received n⟩
  simp [State.surroundings, h.params, h.output, h.draws]

/-- Alike states are alike after a frame is given up, whatever was received. -/
theorem State.Alike.hunt {s s' : State} (h : s.Alike s') : s.hunt.Alike s'.hunt :=
  .of_nothing_received h.surroundings rfl rfl rfl nofun nofun

/-! ### A store -/

/-- The phase that collects a buffer's bytes. -/
def BufName.phase : BufName → Phase
  | .hdrBuf => .hdr
  | .payBuf => .pay
  | .rxCrc => .cks

/-- In a buffer's own phase `cnt` counts its bytes. -/
theorem State.filled_of_phase {n : BufName} {s : State} (h : s.phase = n.phase) : s.filled n = s.cnt.toNat := by
  cases n <;> simp only [BufName.phase] at h <;> simp only [State.filled, h]

/-- A store counts in no other buffer. -/
theorem State.filled_stored_ne {n k : BufName} {s : State} (h : s.phase = n.phase) (hk : k ≠ n) (b : Byte) :
    (s.stored n b).filled k = s.filled k := by
  cases n <;> cases k <;> simp only [BufName.phase] at h <;> simp [State.filled, h] at hk ⊢

/-- Alike states store the same byte alike. -/
theorem State.Alike.stored {n : BufName} {s s' : State} (h : s.Alike s') (hi : s.Inv) (hi' : s'.Inv)
    (hp : s.phase = n.phase) (hc : s.cnt.toNat < n.cap) (b : Byte) : (s.stored n b).Alike (s'.stored n b) := by
  refine ⟨by simpa [State.surroundings] using h.surroundings, by simp [h.phase], by simp [h.cnt],
    by simpa using h.plen, fun k => ?_⟩
  by_cases hk : k = n
  · subst hk
    have hp' : (s.stored k b).phase = k.phase := by rw [State.stored_phase, hp]
    have hr := h.received k
    rw [State.filled_of_phase hp] at hr
    rw [State.filled_of_phase hp', State.stored_cnt_toNat hc, State.stored_buf_self, State.stored_buf_self, h.cnt]
    exact hr.write (hi.bufWf k) (hi'.bufWf k) b
  · rw [State.filled_stored_ne hp hk, State.stored_buf_ne hk, State.stored_buf_ne hk]
    exact h.received k

/-! ### A complete header and a complete payload -/

/-- The length field of a complete header is the same. -/
theorem hdrPlen_congr {s s' : State} (h : Memory.sameBelow 25 s.hdrBuf s'.hdrBuf) : s'.hdrPlen = s.hdrPlen :=
  h.le2_eq (by decide)

/-- With the header complete, its 25 bytes are all that is written, whatever the length field says. -/
theorem State.filled_headerComplete (s : State) (n : BufName) :
    (Machine.headerComplete s).filled n = if n = .hdrBuf then 25 else 0 := by
  by_cases h0 : s.hdrPlen = 0#16 <;> cases n <;> simp [Machine.headerComplete, State.filled, h0]

/-- Header complete (R84): `plen` is alike from here on. -/
theorem State.Alike.headerComplete {s s' : State} (h : s.Alike s') (hp : s.phase = .hdr) (hc : s.cnt = 25#16) :
    (headerComplete s).Alike (headerComplete s') := by
  have hr := h.received .hdrBuf
  rw [State.filled_of_phase (n := .hdrBuf) hp, hc] at hr
  have hl := hdrPlen_congr hr
  refine ⟨h.surroundings, ?_, rfl, fun _ => hl, fun n => ?_⟩
  · show (if s'.hdrPlen = 0#16 then Phase.cks else .pay) = if s.hdrPlen = 0#16 then .cks else .pay
    rw [hl]
  · rw [State.filled_headerComplete]
    cases n with
    | hdrBuf => exact hr
    | _ => exact Memory.sameBelow_zero _ _

/-- Payload complete (R85): the bytes written are all `plen` of them. -/
theorem State.Alike.payloadComplete {s s' : State} (h : s.Alike s') (hp : s.phase = .pay) (hc : s.cnt = s.plen) :
    ((s.setCnt 0#16).setPhase .cks).Alike ((s'.setCnt 0#16).setPhase .cks) := by
  refine ⟨h.surroundings, rfl, rfl, fun _ => h.plen (.inl hp), fun n => ?_⟩
  have hr := h.received n
  cases n with
  | hdrBuf => simpa [State.filled, hp] using hr
  | payBuf => simpa [State.filled, hp, hc] using hr
  | rxCrc => exact Memory.sameBelow_zero _ _

/-! ### A complete frame: what the check and the decoder read (R87, R97, R107) -/

section Checksum

variable {s s' : State} (h : s.Alike s') (hp : s.phase = .cks)
include h hp

theorem State.Alike.header : Memory.sameBelow 25 s.hdrBuf s'.hdrBuf := by
  simpa [State.filled, hp] using h.received .hdrBuf

theorem State.Alike.payload : Memory.sameBelow s.plen.toNat s.payBuf s'.payBuf := by
  simpa [State.filled, hp] using h.received .payBuf

theorem State.Alike.checksum : Memory.sameBelow s.cnt.toNat s.rxCrc s'.rxCrc := by
  simpa [State.filled, hp] using h.received .rxCrc

theorem State.Alike.computedCrc : s'.computedCrc = s.computedCrc := by
  simp only [State.computedCrc, State.frameBytes]
  rw [h.params, h.plen (.inr hp), (h.header hp).slice_eq (by decide), (h.payload hp).slice_eq (Nat.zero_add _).le]

theorem State.Alike.receivedCrc (hc : s.cnt = 4#16) : s'.receivedCrc = s.receivedCrc := by
  have hr := h.checksum hp
  rw [hc] at hr
  exact hr.le4_eq (by decide)

theorem State.Alike.key : s'.key = s.key := (h.header hp).le3_eq (by decide)

theorem State.Alike.hdrTstat : s'.hdrTstat = s.hdrTstat := by
  rw [State.hdrTstat, State.hdrTstat, h.params, (h.header hp).le1_eq (by omega)]

theorem State.Alike.hdrWeek : s'.hdrWeek = s.hdrWeek := by
  rw [State.hdrWeek, State.hdrWeek, h.params, (h.header hp).le2_eq (by omega)]

theorem State.Alike.hdrMs : s'.hdrMs = s.hdrMs := by
  rw [State.hdrMs, State.hdrMs, h.params, (h.header hp).le4_eq (by omega)]

theorem State.Alike.gpsTimeEvent : s'.gpsTimeEvent = s.gpsTimeEvent := by
  rw [State.gpsTimeEvent, State.gpsTimeEvent, h.hdrWeek hp, h.hdrMs hp, h.hdrTstat hp]

/-! A payload field is read where it fits the payload, and is its draw's free value where it does not (R107). -/

theorem State.Alike.fits (o n : Nat) : s'.fits o n = s.fits o n := by
  rw [State.fits, State.fits, h.plen (.inr hp)]

theorem State.Alike.payU8 (k o : Nat) : s'.payU8 k o = s.payU8 k o := by
  rw [State.payU8, State.payU8, h.fits hp, h.draws]
  split
  · next hf => rw [(h.payload hp).le1_eq (of_decide_eq_true hf)]
  · rfl

theorem State.Alike.payU32 (k o : Nat) : s'.payU32 k o = s.payU32 k o := by
  rw [State.payU32, State.payU32, h.fits hp, h.draws]
  split
  · next hf => rw [(h.payload hp).le4_eq (of_decide_eq_true hf)]
  · rfl

theorem State.Alike.payU64 (k o : Nat) : s'.payU64 k o = s.payU64 k o := by
  rw [State.payU64, State.payU64, h.fits hp, h.draws]
  split
  · next hf => rw [(h.payload hp).le8_eq (of_decide_eq_true hf)]
  · rfl

theorem State.Alike.navFields : s'.navFields = s.navFields := by
  simp only [State.navFields, h.hdrTstat hp, h.hdrWeek hp, h.hdrMs hp, h.payU8 hp, h.payU32 hp, h.payU64 hp]

theorem State.Alike.ackStatus : s'.ackStatus = s.ackStatus := h.payU32 hp 0 0

theorem State.Alike.kindEvent (k : Key) : s'.kindEvent k = s.kindEvent k := by
  simp only [State.kindEvent, State.respNavEvent, h.params, h.navFields hp, h.ackStatus hp]

theorem State.Alike.accepted : s.accepted.Alike s'.accepted := by
  refine .of_nothing_received ?_ rfl rfl rfl nofun nofun
  show ((s'.emit _).addDraws _).surroundings = ((s.emit _).addDraws _).surroundings
  rw [h.gpsTimeEvent hp, h.key hp, h.kindEvent hp, h.params]
  exact State.surroundings_addDraws (State.surroundings_emit h.surroundings _) _

/-- The frame check of alike complete frames (R87): the same verdict, and alike states after it. -/
theorem State.Alike.frameCheck (hc : s.cnt = 4#16) :
    ∃ t t', frameCheck s = .next t ∧ frameCheck s' = .next t' ∧ t.Alike t' := by
  refine ⟨_, _, frameCheck_eq s, frameCheck_eq s', ?_⟩
  rw [h.computedCrc hp, h.receivedCrc hp hc]
  split
  · exact h.accepted hp
  · rw [rejectFrame, rejectFrame, h.computedCrc hp, h.receivedCrc hp hc]
    exact (h.emit _).hunt

end Checksum

/-! ### Every event keeps states alike -/

/-- Two outcomes that agree: the first is a next state only if the second is an alike one. -/
def Matched (o o' : Host.Outcome State Fault Refusal) : Prop := ∀ t, o = .next t → ∃ t', o' = .next t' ∧ t.Alike t'

theorem matched_next {t t' : State} (h : t.Alike t') : Matched (.next t) (.next t') := by
  rintro _ ⟨⟩
  exact ⟨t', rfl, h⟩

/-- A store and then another part agree if the other part agrees after the store. -/
theorem State.Alike.matched_storeByte {n : BufName} {s s' : State} {b : Byte}
    {f : State → Host.Outcome State Fault Refusal} (h : s.Alike s') (hi : s.Inv) (hi' : s'.Inv)
    (hp : s.phase = n.phase) (hf : ∀ u u' : State, u.phase = n.phase → u.Alike u' → Matched (f u) (f u')) :
    Matched (andThen (storeByte n b s) f) (andThen (storeByte n b s') f) := by
  intro t ht
  obtain ⟨hc, hu⟩ := andThen_storeByte_eq_next.mp ht
  obtain ⟨t', hu', ha⟩ := hf _ _ (by rw [State.stored_phase, hp]) (h.stored hi hi' hp hc b) t hu
  exact ⟨t', andThen_storeByte_eq_next.mpr ⟨by rwa [h.cnt], hu'⟩, ha⟩

/-- RX_BYTE in HDR (R83, R84). -/
theorem State.Alike.rxByteHdr {s s' : State} (h : s.Alike s') (hi : s.Inv) (hi' : s'.Inv) (hp : s.phase = .hdr)
    (b : Byte) : Matched (exec (.rxByteHdr b) s) (exec (.rxByteHdr b) s') := by
  refine h.matched_storeByte (n := .hdrBuf) hi hi' hp fun u u' hu ha => ?_
  by_cases hc : u.cnt = 25#16
  · simpa [ha.cnt, hc] using matched_next (ha.headerComplete hu hc)
  · simpa [ha.cnt, hc] using matched_next ha

/-- RX_BYTE in PAY (R85): both payloads end at the same byte. -/
theorem State.Alike.rxBytePay {s s' : State} (h : s.Alike s') (hi : s.Inv) (hi' : s'.Inv) (hp : s.phase = .pay)
    (b : Byte) : Matched (exec (.rxBytePay b) s) (exec (.rxBytePay b) s') := by
  refine h.matched_storeByte (n := .payBuf) hi hi' hp fun u u' hu ha => ?_
  by_cases hc : u.cnt = u.plen
  · simpa [ha.cnt, ha.plen (.inl hu), hc] using matched_next (ha.payloadComplete hu hc)
  · simpa [ha.cnt, ha.plen (.inl hu), hc] using matched_next ha

/-- RX_BYTE in CKS (R86 to R89). -/
theorem State.Alike.rxByteCks {s s' : State} (h : s.Alike s') (hi : s.Inv) (hi' : s'.Inv) (hp : s.phase = .cks)
    (b : Byte) : Matched (exec (.rxByteCks b) s) (exec (.rxByteCks b) s') := by
  refine h.matched_storeByte (n := .rxCrc) hi hi' hp fun u u' hu ha => ?_
  by_cases hc : u.cnt = 4#16
  · obtain ⟨t, t', ht, ht', hta⟩ := ha.frameCheck hu hc
    simpa [ha.cnt, hc, ht, ht'] using matched_next hta
  · simpa [ha.cnt, hc] using matched_next ha

/-- Hunting alike states stay alike in any phase that still has nothing of a frame. -/
theorem State.Alike.setPhase {s s' : State} (h : s.Alike s') {ph : Phase} (hc : s.cnt = 0#16) (hp : ph ≠ .pay)
    (hk : ph ≠ .cks) : (s.setPhase ph).Alike (s'.setPhase ph) :=
  .of_nothing_received h.surroundings rfl h.cnt hc hp hk

/-- Every input event of the phase keeps alike states alike. -/
theorem State.Alike.exec {s s' : State} (h : s.Alike s') (hi : s.Inv) (hi' : s'.Inv) {i : Instr}
    (hp : i.inPhase s.phase = true) (hf : i.format = .portOp) : Matched (exec i s) (exec i s') := by
  cases i with
  | rxByteHunt0 b =>
    have hc := hi.cnt_of_hunting (.inl (eq_of_beq hp))
    refine matched_next ?_
    split
    · exact h.setPhase hc nofun nofun
    · exact h.setPhase hc nofun nofun
  | rxByteHunt1 b =>
    have hc := hi.cnt_of_hunting (.inr (.inl (eq_of_beq hp)))
    refine matched_next ?_
    split
    · exact h.setPhase hc nofun nofun
    · split
      · exact h.setPhase hc nofun nofun
      · exact h.setPhase hc nofun nofun
  | rxByteHunt2 b =>
    have hc := hi.cnt_of_hunting (.inr (.inr (eq_of_beq hp)))
    refine matched_next ?_
    split
    · exact .of_nothing_received h.surroundings rfl rfl rfl nofun nofun
    · exact h.setPhase hc nofun nofun
  | rxByteHdr b => exact h.rxByteHdr hi hi' (eq_of_beq hp) b
  | rxBytePay b => exact h.rxBytePay hi hi' (eq_of_beq hp) b
  | rxByteCks b => exact h.rxByteCks hi hi' (eq_of_beq hp) b
  | rxTimeoutHunt => exact matched_next h
  | rxTimeoutCollect =>
    refine matched_next ?_
    rw [h.phase, h.cnt]
    exact (h.emit _).hunt
  | crcCompute bs =>
    refine matched_next ?_
    rw [h.params]
    exact h.emit _
  | encFrame id bs =>
    refine matched_next ?_
    rw [sendFrame, sendFrame, h.params]
    exact h.emit _
  | encStopLog uid =>
    refine matched_next ?_
    rw [sendFrame, sendFrame, h.params]
    exact h.emit _
  | encStartLog lid per off =>
    refine matched_next ?_
    rw [sendFrame, sendFrame, h.params]
    exact h.emit _
  | reset => exact matched_next (.of_nothing_received h.surroundings rfl rfl rfl nofun nofun)
  | _ => cases hf

/-! ### Every run keeps states alike -/

/-- Alike states fetch the same. -/
theorem State.Alike.fetch {s s' : State} (h : s.Alike s') : fetch s' = fetch s := by
  rw [Machine.fetch, Machine.fetch, h.phase, h.input]

/-- A step from alike states. -/
theorem State.Alike.step {s s' : State} (h : s.Alike s') (hi : s.Inv) (hi' : s'.Inv) : Matched (step s) (step s') := by
  intro t ht
  rcases step_cases ht with ⟨hf, rfl⟩ | ⟨i, rest, hf, hx⟩
  · exact ⟨s', step_of_noEvent (h.fetch.trans hf), h⟩
  · obtain ⟨-, -, hformat⟩ := takenFrom_of_decodeEvent s.params hf
    rw [step_of_fetch (h.fetch.trans hf)]
    exact (h.setInput rest).exec (hi.of_rx_eq rfl) (hi'.of_rx_eq rfl) (inPhase_of_decodeEvent hf) hformat t hx

/-- A run from alike states. -/
theorem State.Alike.runSteps {s s' : State} (h : s.Alike s') (hi : s.Inv) (hi' : s'.Inv) (k : Nat) :
    Matched (runSteps k s) (runSteps k s') := by
  induction k generalizing s s' with
  | zero => exact matched_next h
  | succ k ih =>
    intro t ht
    obtain ⟨u, hu, hr⟩ := andThen_eq_next ht
    obtain ⟨u', hu', ha⟩ := h.step hi hi' u hu
    rw [runSteps_succ hu']
    exact ih ha (step_keeps_inv hi hu) (step_keeps_inv hi' hu') t hr

/-- Settles O55: hunting states that share all but buffers and `plen` are alike, and stay so along the run. -/
theorem oldBufferContentsNeverShow : Obligations.OldBufferContentsNeverShow := by
  unfold Obligations.OldBufferContentsNeverShow
  intro s s' hi hi' hp hphase hparams hinput houtput hdraws k t ht
  have hcnt := hi.cnt_of_hunting hp
  have hcnt' := hi'.cnt_of_hunting (hphase ▸ hp)
  have hs : s'.surroundings = s.surroundings := by simp [State.surroundings, hparams, hinput, houtput, hdraws]
  have hne : s.phase ≠ .pay ∧ s.phase ≠ .cks := by
    rcases hp with hp | hp | hp <;> rw [hp] <;> decide
  have ha : s.Alike s' := .of_nothing_received hs hphase (hcnt'.trans hcnt.symm) hcnt hne.1 hne.2
  obtain ⟨t', ht', hta⟩ := ha.runSteps hi hi' k t ht
  exact ⟨t', ht', hta.output, hta.phase, hta.cnt, hta.input⟩

end Sys2Proof.Machine

/-! ## Scope: byte conversions and buffer ranges (20_memory.md R31, R34) -/

namespace Sys2Proof

/-- Reading back the `n` bytes written for a number gives what of it fits in them. -/
theorem leNat_leBytes_mod (n v : Nat) : leNat (leBytes n v) = v % 2 ^ (8 * n) := by
  induction n generalizing v with
  | zero => exact (Nat.mod_one v).symm
  | succ n ih =>
    have hpow : 2 ^ (8 * (n + 1)) = 256 * 2 ^ (8 * n) := by rw [Nat.mul_succ, Nat.pow_add, Nat.mul_comm]
    rw [leBytes, leNat, BitVec.toNat_ofNat, ih, hpow, Nat.mod_mul]

/-- Settles O13: for a number that fits, nothing is lost to the modulus of `leNat_leBytes_mod`. -/
theorem byteConversionsAreInverse : Obligations.ByteConversionsAreInverse := by
  unfold Obligations.ByteConversionsAreInverse
  exact ⟨leBytes_leNat, fun n v hv => (leNat_leBytes_mod n v).trans (Nat.mod_eq_of_lt hv)⟩

end Sys2Proof

namespace Sys2Proof.Machine

/-- A store and then a part that always completes faults exactly where `cnt` is outside the buffer. -/
theorem andThen_storeByte_eq_fault {n : BufName} {b : Byte} {s : State}
    {f : State → Host.Outcome State Fault Refusal} (hf : ∀ u, ∃ t, f u = .next t) :
    andThen (storeByte n b s) f = .fault (.bufferIndex n s.cnt.toNat) ↔ n.cap ≤ s.cnt.toNat := by
  by_cases hc : s.cnt.toNat < n.cap
  · obtain ⟨t, ht⟩ := storeByte_andThen_completes hc b hf
    rw [ht]
    exact ⟨nofun, fun h => absurd hc (Nat.not_lt.mpr h)⟩
  · rw [storeByte_fault hc, andThen_fault]
    exact iff_of_true rfl (Nat.not_lt.mp hc)

/-- Settles O36: what each collecting event does after its store always completes, the frame check included. -/
theorem indexOutsideTheBufferFaults : Obligations.IndexOutsideTheBufferFaults := by
  unfold Obligations.IndexOutsideTheBufferFaults
  intro s b
  refine ⟨andThen_storeByte_eq_fault fun _ => ⟨_, rfl⟩, andThen_storeByte_eq_fault fun _ => ⟨_, rfl⟩,
    andThen_storeByte_eq_fault fun u => ?_⟩
  split
  · exact frameCheck_completes u
  · exact ⟨u, rfl⟩

end Sys2Proof.Machine

/-! ## Scope: the three encodings and their decoders (30_encoding.md)

Reading back an encoding gives the instruction, in each of the three formats. An input event is read in every phase, as
the row `Instr.readIn` names (R63); a dispatch key is the pattern of its id, ignored type bits and response flag, and
the table's masks leave the type bits out (R59, R60); a command's operands stand at the payload offsets of R57 and R58. -/

namespace Sys2Proof

/-! ### Words and ranges of bytes. The bytes of an operand are spelt out where `leBytes` has unfolded. -/

/-- Reading back the bytes of a word gives the word (R34). -/
theorem ofNat_leNat_leBytes (n : Nat) (v : BitVec (8 * n)) :
    BitVec.ofNat (8 * n) (leNat (leBytes n v.toNat)) = v := by
  rw [leNat_leBytes_mod, Nat.mod_eq_of_lt v.isLt, BitVec.ofNat_toNat, BitVec.setWidth_eq]

theorem u16Of_bytes (v : U16) : u16Of (BitVec.ofNat 8 v.toNat) (BitVec.ofNat 8 (v.toNat / 256)) = v :=
  ofNat_leNat_leBytes 2 v

theorem u32Of_bytes (v : U32) :
    u32Of (BitVec.ofNat 8 v.toNat) (BitVec.ofNat 8 (v.toNat / 256)) (BitVec.ofNat 8 (v.toNat / 256 / 256))
      (BitVec.ofNat 8 (v.toNat / 256 / 256 / 256)) = v :=
  ofNat_leNat_leBytes 4 v

/-- A length that R24 allows is read back from its two bytes. -/
theorem u16Of_lengthBytes {bs : List Byte} (h : lengthOk bs = true) :
    (u16Of (BitVec.ofNat 8 bs.length) (BitVec.ofNat 8 (bs.length / 256))).toNat = bs.length := by
  have hlt : bs.length < 2 ^ 16 := Nat.lt_succ_of_le (of_decide_eq_true h)
  have hread : leNat (leBytes 2 bs.length) = bs.length := (leNat_leBytes_mod 2 _).trans (Nat.mod_eq_of_lt hlt)
  exact (congrArg (· % 2 ^ 16) hread).trans (Nat.mod_eq_of_lt hlt)

/-- Taking as many bytes as the first part has takes that part. -/
theorem takeBytes_append {n : Nat} {a : List Byte} (h : a.length = n) (rest : List Byte) :
    takeBytes n (a ++ rest) = some (a, rest) := by
  subst h
  simp [takeBytes]

/-! ### Input events (R63) -/

/-- The row as which a phase reads the port bytes of an instruction: one op byte stands for all rows of RX_BYTE, and one
for both of RX_TIMEOUT. -/
def Instr.readIn (ph : Phase) : Instr → Instr
  | .rxByteHunt0 b | .rxByteHunt1 b | .rxByteHunt2 b | .rxByteHdr b | .rxBytePay b | .rxByteCks b => rxByteInstr ph b
  | .rxTimeoutHunt | .rxTimeoutCollect => rxTimeoutInstr ph
  | i => i

/-- A row of the phase is read as itself. -/
theorem Instr.readIn_of_inPhase {i : Instr} {ph : Phase} (h : i.inPhase ph = true) : i.readIn ph = i := by
  cases i with
  | rxByteHunt0 | rxByteHunt1 | rxByteHunt2 | rxByteHdr | rxBytePay | rxByteCks =>
    obtain rfl := eq_of_beq h
    rfl
  | rxTimeoutHunt =>
    cases ph with
    | hunt0 | hunt1 | hunt2 => rfl
    | hdr | pay | cks => cases h
  | rxTimeoutCollect =>
    cases ph with
    | hunt0 | hunt1 | hunt2 => cases h
    | hdr | pay | cks => rfl
  | _ => rfl

theorem decodeEvent_crcCompute (ph : Phase) {bs : List Byte} (h : lengthOk bs = true) (rest : List Byte) :
    decodeEvent ph (0x02#8 :: (leBytes 2 bs.length ++ bs ++ rest)) = .ok (.crcCompute bs, rest) := by
  refine decodeEvent_cons_ok.mpr ?_
  change (takeBytes (u16Of _ _).toNat (bs ++ rest)).map _ = _
  rw [u16Of_lengthBytes h, takeBytes_append rfl]
  rfl

theorem decodeEvent_encFrame (ph : Phase) (id : U16) {bs : List Byte} (h : lengthOk bs = true) (rest : List Byte) :
    decodeEvent ph (0x03#8 :: (leBytes 2 id.toNat ++ leBytes 2 bs.length ++ bs ++ rest)) =
      .ok (.encFrame id bs, rest) := by
  refine decodeEvent_cons_ok.mpr ?_
  change (takeBytes (u16Of _ _).toNat (bs ++ rest)).map (fun r => (Instr.encFrame (u16Of _ _) r.1, r.2)) = _
  rw [u16Of_lengthBytes h, takeBytes_append rfl, u16Of_bytes]
  rfl

theorem decodeEvent_encStopLog (ph : Phase) (uid : U16) (rest : List Byte) :
    decodeEvent ph (0x04#8 :: (leBytes 2 uid.toNat ++ rest)) = .ok (.encStopLog uid, rest) := by
  change Except.ok (Instr.encStopLog (u16Of _ _), rest) = _
  rw [u16Of_bytes]

theorem decodeEvent_encStartLog (ph : Phase) (lid : U16) (per off : U32) (rest : List Byte) :
    decodeEvent ph (0x05#8 :: (leBytes 2 lid.toNat ++ leBytes 4 per.toNat ++ leBytes 4 off.toNat ++ rest)) =
      .ok (.encStartLog lid per off, rest) := by
  change Except.ok (Instr.encStartLog (u16Of _ _) (u32Of _ _ _ _) (u32Of _ _ _ _), rest) = _
  rw [u16Of_bytes, u32Of_bytes, u32Of_bytes]

/-- Every well-formed input event is read back in every phase, as the phase's row. -/
theorem decodeEvent_encode (p : Params) (ph : Phase) {i : Instr} (hwf : i.wf = true) (hf : i.format = .portOp)
    (rest : List Byte) : decodeEvent ph (encode p i ++ rest) = .ok (i.readIn ph, rest) := by
  cases i with
  | rxByteHunt0 | rxByteHunt1 | rxByteHunt2 | rxByteHdr | rxBytePay | rxByteCks => rfl
  | rxTimeoutHunt | rxTimeoutCollect | reset => rfl
  | crcCompute bs => exact decodeEvent_crcCompute ph hwf rest
  | encFrame id bs => exact decodeEvent_encFrame ph id hwf rest
  | encStopLog uid => exact decodeEvent_encStopLog ph uid rest
  | encStartLog lid per off => exact decodeEvent_encStartLog ph lid per off rest
  | _ => cases hf

/-- Settles O15: `takenFrom_of_decodeEvent`, and the row is the phase's. -/
theorem decodedEventIsEncodedThatWay : Obligations.DecodedEventIsEncodedThatWay := by
  unfold Obligations.DecodedEventIsEncodedThatWay
  intro p ph bs rest i h
  obtain ⟨hbytes, hwf, hformat⟩ := takenFrom_of_decodeEvent p h
  exact ⟨hbytes, hwf, hformat, inPhase_of_decodeEvent h⟩

/-! ### Inbound frame keys (R59 to R61) -/

theorem getLsbD_mkKey (id : U16) (t : BitVec 7) (resp : Bool) (i : Nat) :
    (mkKey id t resp).getLsbD i =
      if i < 16 then id.getLsbD i
      else if i - 16 < 7 then t.getLsbD (i - 16) else (BitVec.ofBool resp).getLsbD (i - 16 - 7) := by
  refine BitVec.getLsbD_append.trans ?_
  rw [BitVec.getLsbD_append]

@[simp] theorem keyId_mkKey (id : U16) (t : BitVec 7) (resp : Bool) : keyId (mkKey id t resp) = id :=
  BitVec.extractLsb'_append_eq_right

@[simp] theorem keyType_mkKey (id : U16) (t : BitVec 7) (resp : Bool) : keyType (mkKey id t resp) = t :=
  (BitVec.extractLsb'_append_eq_of_le (Nat.le_refl 16)).trans BitVec.extractLsb'_append_eq_right

@[simp] theorem keyResp_mkKey (id : U16) (t : BitVec 7) (resp : Bool) : keyResp (mkKey id t resp) = resp :=
  (getLsbD_mkKey id t resp 23).trans (by cases resp <;> rfl)

/-- The three fields are all of the key. -/
theorem mkKey_fields (k : Key) : mkKey (keyId k) (keyType k) (keyResp k) = k := by
  refine BitVec.eq_of_getLsbD_eq fun i hi => ?_
  rw [getLsbD_mkKey]
  by_cases h16 : i < 16
  · simp [keyId, h16]
  by_cases h7 : i - 16 < 7
  · simp [keyType, h16, h7, show 16 + (i - 16) = i by omega]
  · obtain rfl : i = 23 := by omega
    simp [keyResp]

theorem mkKey_inj {id id' : U16} {t t' : BitVec 7} {resp resp' : Bool} :
    mkKey id t resp = mkKey id' t' resp' ↔ id = id' ∧ t = t' ∧ resp = resp' := by
  refine ⟨fun h => ⟨?_, ?_, ?_⟩, fun ⟨hid, ht, hresp⟩ => by rw [hid, ht, hresp]⟩
  · simpa using congrArg keyId h
  · simpa using congrArg keyType h
  · simpa using congrArg keyResp h

/-- The mask of R60's rows clears the ignored type bits. -/
theorem mkKey_and_mask (id : U16) (t : BitVec 7) (resp : Bool) :
    mkKey id t resp &&& 0x80FFFF#24 = mkKey id 0#7 resp := by
  refine (BitVec.and_append (x₂ := 1#1 ++ 0#7) (y₂ := BitVec.allOnes 16)).trans ?_
  rw [BitVec.and_append, BitVec.and_allOnes, BitVec.and_zero]
  cases resp <;> rfl

/-- A row of R60 matches a key exactly where the message id and the response flag are the row's. -/
theorem mkKey_matches (id id' : U16) (t : BitVec 7) (resp resp' : Bool) :
    (mkKey id t resp &&& 0x80FFFF#24 == mkKey id' 0#7 resp') = (id == id' && resp == resp') := by
  rw [mkKey_and_mask, Bool.eq_iff_iff, Bool.and_eq_true, beq_iff_eq, beq_iff_eq, beq_iff_eq, mkKey_inj]
  simp

/-- R60's patterns by their fields. -/
theorem rxRows_eq : rxRows =
    [⟨.logAck, mkKey 1#16 0#7 true, 0x80FFFF#24⟩,
     ⟨.nav244, mkKey 244#16 0#7 false, 0x80FFFF#24⟩,
     ⟨.nav241, mkKey 241#16 0#7 false, 0x80FFFF#24⟩,
     ⟨.nav1Quirk, mkKey 1#16 0#7 false, 0x80FFFF#24⟩,
     ⟨.resp244, mkKey 244#16 0#7 true, 0x80FFFF#24⟩,
     ⟨.resp241, mkKey 241#16 0#7 true, 0x80FFFF#24⟩,
     ⟨.unexpected, 0x000000#24, 0x000000#24⟩] := rfl

/-- The inbound frame kind of a message id, ignored type bits and response flag (R60, R61). -/
def frameKind (id : U16) (t : BitVec 7) (resp : Bool) : Instr :=
  if id = 1#16 then if resp then .logAck t else .nav1Quirk t
  else if id = 244#16 then if resp then .resp244 t else .nav244 t
  else if id = 241#16 then if resp then .resp241 t else .nav241 t
  else .unexpected id resp t

/-- The first matching row of the table is the frame kind of the key's fields. -/
theorem keyInstr_mkKey (id : U16) (t : BitVec 7) (resp : Bool) :
    keyInstr (mkKey id t resp) = frameKind id t resp := by
  rw [keyInstr, rxKind, rxRows_eq, frameKind]
  simp only [List.find?, mkKey_matches, keyId_mkKey, keyType_mkKey, keyResp_mkKey]
  by_cases h1 : id = 1#16
  · cases resp <;> simp [h1]
  by_cases h244 : id = 244#16
  · cases resp <;> simp [h244]
  by_cases h241 : id = 241#16
  · cases resp <;> simp [h241]
  · simp [h1, h244, h241, beq_eq_false_iff_ne.mpr h1, beq_eq_false_iff_ne.mpr h244, beq_eq_false_iff_ne.mpr h241]

theorem unexpectedId_iff {id : U16} : unexpectedId id = true ↔ id ≠ 1#16 ∧ id ≠ 241#16 ∧ id ≠ 244#16 := by
  simp only [unexpectedId, Bool.and_eq_true, bne_iff_ne, and_assoc]

/-- R61: every other id is UNEXPECTED. -/
theorem frameKind_of_unexpectedId {id : U16} (h : unexpectedId id = true) (t : BitVec 7) (resp : Bool) :
    frameKind id t resp = .unexpected id resp t := by
  obtain ⟨h1, h241, h244⟩ := unexpectedId_iff.mp h
  rw [frameKind, if_neg h1, if_neg h244, if_neg h241]

/-- The frame kind of a key's fields is well-formed and has the key as its encoding. -/
theorem frameKind_encodes (p : Params) (id : U16) (t : BitVec 7) (resp : Bool) :
    encode p (frameKind id t resp) = leBytes 3 (mkKey id t resp).toNat ∧
      (frameKind id t resp).wf = true ∧ (frameKind id t resp).format = .frameKey := by
  by_cases h1 : id = 1#16
  · subst h1
    cases resp <;> exact ⟨rfl, rfl, rfl⟩
  by_cases h244 : id = 244#16
  · subst h244
    cases resp <;> exact ⟨rfl, rfl, rfl⟩
  by_cases h241 : id = 241#16
  · subst h241
    cases resp <;> exact ⟨rfl, rfl, rfl⟩
  · have hid := unexpectedId_iff.mpr ⟨h1, h241, h244⟩
    rw [frameKind_of_unexpectedId hid]
    exact ⟨rfl, hid, rfl⟩

/-- Settles O16: every key is `mkKey` of its fields. -/
theorem everyKeyHasOneFrameKind : Obligations.EveryKeyHasOneFrameKind := by
  unfold Obligations.EveryKeyHasOneFrameKind
  intro p k
  rw [← mkKey_fields k, keyInstr_mkKey]
  exact frameKind_encodes p _ _ _

/-- The key at the head of the bytes is read back. -/
theorem decodeKey_leBytes (k : Key) (rest : List Byte) :
    decodeKey (leBytes 3 k.toNat ++ rest) = .ok (keyInstr k, rest) := by
  rw [decodeKey, takeBytes_append (Laws.EncodeSize.length_leBytes 3 _)]
  exact congrArg (fun k => Except.ok (keyInstr k, rest)) (ofNat_leNat_leBytes 3 k)

/-- Every well-formed inbound frame kind is read back from its key. -/
theorem decodeKey_encode (p : Params) {i : Instr} (hwf : i.wf = true) (hf : i.format = .frameKey) (rest : List Byte) :
    decodeKey (encode p i ++ rest) = .ok (i, rest) := by
  have hkey (id : U16) (t : BitVec 7) (resp : Bool) :
      decodeKey (leBytes 3 (mkKey id t resp).toNat ++ rest) = .ok (frameKind id t resp, rest) := by
    rw [decodeKey_leBytes, keyInstr_mkKey]
  cases i with
  | logAck t => exact hkey 1#16 t true
  | nav244 t => exact hkey 244#16 t false
  | nav241 t => exact hkey 241#16 t false
  | nav1Quirk t => exact hkey 1#16 t false
  | resp244 t => exact hkey 244#16 t true
  | resp241 t => exact hkey 241#16 t true
  | unexpected id resp t => exact (hkey id t resp).trans (by rw [frameKind_of_unexpectedId hwf])
  | _ => cases hf

/-! ### Outbound commands (R47, R57, R58) -/

theorem length_txHeader (p : Params) (id n : U16) : (txHeader p id n).length = 25 := rfl

theorem length_startLogPayload (p : Params) (lid : U16) (per off : U32) :
    (startLogPayload p lid per off).length = (24#16).toNat := rfl

theorem length_stopLogPayload (p : Params) (uid : U16) : (stopLogPayload p uid).length = (8#16).toNat := rfl

/-- `hdr_plen` of a transmitted header. -/
theorem leAt_txHeader_plen (p : Params) (id n : U16) : leAt (txHeader p id n) 5 2 = n.toNat :=
  (leNat_leBytes_mod 2 n.toNat).trans (Nat.mod_eq_of_lt n.isLt)

/-- The key of a transmitted header: its type byte is 0. -/
theorem leAt_txHeader_key (p : Params) (id n : U16) : leAt (txHeader p id n) 1 3 = id.toNat :=
  (leNat_leBytes_mod 2 id.toNat).trans (Nat.mod_eq_of_lt id.isLt)

theorem decodeCommand_startLog (p : Params) (lid : U16) (per off : U32) (rest : List Byte) :
    decodeCommand p (txHeader p startLogId 24#16 ++ startLogPayload p lid per off ++ rest) =
      .ok (.cmdStartLog lid per off, rest) := by
  have hlid : BitVec.ofNat 16 (leAt (startLogPayload p lid per off) 4 2) = lid := ofNat_leNat_leBytes 2 lid
  have hper : BitVec.ofNat 32 (leAt (startLogPayload p lid per off) 12 4) = per := ofNat_leNat_leBytes 4 per
  have hoff : BitVec.ofNat 32 (leAt (startLogPayload p lid per off) 16 4) = off := ofNat_leNat_leBytes 4 off
  rw [decodeCommand, List.append_assoc, takeBytes_append (length_txHeader p _ _)]
  simp only [leAt_txHeader_plen, leAt_txHeader_key]
  rw [takeBytes_append (length_startLogPayload p lid per off)]
  simp only [hlid, hper, hoff]
  rfl

theorem decodeCommand_stopLog (p : Params) (uid : U16) (rest : List Byte) :
    decodeCommand p (txHeader p stopLogId 8#16 ++ stopLogPayload p uid ++ rest) = .ok (.cmdStopLog uid, rest) := by
  have huid : BitVec.ofNat 16 (leAt (stopLogPayload p uid) 4 2) = uid := ofNat_leNat_leBytes 2 uid
  rw [decodeCommand, List.append_assoc, takeBytes_append (length_txHeader p _ _)]
  simp only [leAt_txHeader_plen, leAt_txHeader_key]
  rw [takeBytes_append (length_stopLogPayload p uid)]
  simp only [huid]
  rfl

/-- Settles O19: the key of a command's header has its id, type bits 0 and no response flag. -/
theorem commandFramesLoopBackByTheInboundRows : Obligations.CommandFramesLoopBackByTheInboundRows := by
  unfold Obligations.CommandFramesLoopBackByTheInboundRows
  intro p
  rw [leAt_txHeader_key, leAt_txHeader_key]
  exact ⟨keyInstr_mkKey startLogId 0#7 false, keyInstr_mkKey stopLogId 0#7 false⟩

/-! ### All three formats -/

/-- Settles O14, by the format of the row. -/
theorem decodeOfEncodeIsTheInstruction : Obligations.DecodeOfEncodeIsTheInstruction := by
  unfold Obligations.DecodeOfEncodeIsTheInstruction
  intro p i ph rest hwf hph
  cases hf : i.format with
  | portOp => rw [decode, decodeEvent_encode p ph hwf hf, Instr.readIn_of_inPhase hph]
  | frameKey => exact decodeKey_encode p hwf hf rest
  | frameOut =>
    cases i with
    | cmdStartLog lid per off => exact decodeCommand_startLog p lid per off rest
    | cmdStopLog uid => exact decodeCommand_stopLog p uid rest
    | _ => cases hf

/-- Settles O18: the decoders evaluate each word. -/
theorem writtenOutWordsDecode : Obligations.WrittenOutWordsDecode := by
  unfold Obligations.WrittenOutWordsDecode
  exact ⟨rfl, rfl, rfl, rfl, rfl, rfl, rfl, rfl, rfl⟩

end Sys2Proof

/-! ## Scope: what a step fetches, and what it refuses (30_encoding.md R63, 60_exceptions.md R129) -/

namespace Sys2Proof.Machine

/-- Settles O20: the step fetches the event whose encoding is at the head of the port's bytes. -/
theorem stepRunsTheDecodedEvent : Obligations.StepRunsTheDecodedEvent := by
  unfold Obligations.StepRunsTheDecodedEvent
  intro s i rest hwf hformat hphase hinput
  refine step_of_fetch ?_
  rw [fetch, hinput, decodeEvent_encode s.params s.phase hwf hformat, Instr.readIn_of_inPhase hphase]

/-- A store and then a part that always completes is never refused. -/
theorem andThen_storeByte_ne_refused {n : BufName} {b : Byte} {s : State}
    {f : State → Host.Outcome State Fault Refusal} (hf : ∀ u, ∃ t, f u = .next t) (r : Refusal) :
    andThen (storeByte n b s) f ≠ .refused r := by
  by_cases hc : s.cnt.toNat < n.cap
  · obtain ⟨t, ht⟩ := storeByte_andThen_completes hc b hf
    rw [ht]
    exact nofun
  · rw [storeByte_fault hc, andThen_fault]
    exact nofun

/-- Every instruction has a meaning: none is refused, in any state. -/
theorem exec_ne_refused (i : Instr) (s : State) (r : Refusal) : exec i s ≠ .refused r := by
  cases i with
  | rxByteHdr b => exact andThen_storeByte_ne_refused (fun _ => ⟨_, rfl⟩) r
  | rxBytePay b => exact andThen_storeByte_ne_refused (fun _ => ⟨_, rfl⟩) r
  | rxByteCks b =>
    refine andThen_storeByte_ne_refused (fun u => ?_) r
    split
    · exact frameCheck_completes u
    · exact ⟨u, rfl⟩
  | _ => exact nofun

/-- A step refuses exactly what the fetch rejects as reserved or truncated. -/
theorem step_eq_refused_iff {s : State} {r : Refusal} :
    step s = .refused r ↔
      (∃ op, fetch s = .error (.reservedOp op) ∧ r = .reservedOp op) ∨
      (∃ op, fetch s = .error (.truncated op) ∧ r = .truncatedEvent op) := by
  unfold step
  split
  · next i rest hf => simp [hf, exec_ne_refused]
  · next hf => simp [hf]
  · next op hf => simp [hf, eq_comm]
  · next op hf => simp [hf, eq_comm]

/-- A reserved op byte is rejected as such, whatever follows it (R63). -/
theorem decodeEvent_reserved (ph : Phase) {op : Byte} (h : 7 ≤ op.toNat) (rest : List Byte) :
    decodeEvent ph (op :: rest) = .error (.reservedOp op) := by
  have hnone : decodeOperands ph op rest = none := by
    unfold decodeOperands
    split
    case h_8 => rfl
    all_goals omega
  rw [decodeEvent_cons, hnone]
  exact if_neg (by omega)

/-- Settles O23: a rejected fetch names the op byte at the head of the input, and an input that begins with an event is
not rejected, whatever the phase. -/
theorem stepRefusesOnlyIllFormedInput : Obligations.StepRefusesOnlyIllFormedInput := by
  unfold Obligations.StepRefusesOnlyIllFormedInput
  refine ⟨fun s op rest hinput hop => ?_, fun s r h => ?_⟩
  · refine step_eq_refused_iff.mpr (.inl ⟨op, ?_, rfl⟩)
    rw [fetch, hinput, decodeEvent_reserved s.phase hop]
  · obtain ⟨op, rest, hinput⟩ : ∃ op rest, s.input = op :: rest := by
      refine List.exists_cons_of_ne_nil fun hnil => ?_
      rw [step_of_noEvent (decodeEvent_noEvent_iff.mpr hnil)] at h
      cases h
    have rejected {e : PortReject} (hf : fetch s = .error e) :
        (op.toNat ≤ 6 ∧ e = .truncated op) ∨ (7 ≤ op.toNat ∧ e = .reservedOp op) := by
      rw [fetch, hinput] at hf
      exact (decodeEvent_cons_error hf).2
    refine ⟨op, rest, hinput, ?_⟩
    rcases step_eq_refused_iff.mp h with ⟨op', hf, rfl⟩ | ⟨op', hf, rfl⟩
    · rcases rejected hf with ⟨-, he⟩ | ⟨hop, he⟩
      · cases he
      · cases he
        exact .inl ⟨hop, rfl⟩
    · rcases rejected hf with ⟨hop, he⟩ | ⟨-, he⟩
      · cases he
        refine .inr ⟨hop, rfl, fun ⟨i, more, hwf, hformat, hbytes⟩ => ?_⟩
        rw [fetch, hbytes, decodeEvent_encode s.params s.phase hwf hformat] at hf
        cases hf
      · cases he

end Sys2Proof.Machine

/-! ## Scope: the CRC engine (40_crc.md)

The bit step is linear over XOR, so a register splits into its low byte, which eight steps turn into a table entry, and
the rest, which they only shift (R76); a register that meets its own low byte keeps only the shift (R75). With polynomial
bit 31 set, the result's bit 31 is the bit shifted out, so no step loses information (R73). -/

namespace Sys2Proof.Machine

/-! ### The loops of R68 and R69 as iterate and fold -/

theorem crcBits_eq_iterate (poly : U32) (n : Nat) : crcBits poly n = (crcBit poly)^[n] := by
  induction n with
  | zero => rfl
  | succ n ih => rw [Function.iterate_succ, ← ih]; rfl

theorem crcFold_eq_foldl (poly acc : U32) (bs : List Byte) : crcFold poly acc bs = bs.foldl (crcStep poly) acc := by
  induction bs generalizing acc with
  | nil => rfl
  | cons b bs ih => exact ih _

theorem crcFold_append (poly acc : U32) (a b : List Byte) :
    crcFold poly acc (a ++ b) = crcFold poly (crcFold poly acc a) b := by
  simp only [crcFold_eq_foldl, List.foldl_append]

/-- Settles O6: `crcBits` is the eightfold iterate of `crcBit`. -/
theorem crcStepFoldsTheByteAndShiftsEightTimes : Obligations.CrcStepFoldsTheByteAndShiftsEightTimes := by
  unfold Obligations.CrcStepFoldsTheByteAndShiftsEightTimes
  exact fun poly acc b => congrFun (crcBits_eq_iterate poly 8) _

/-- Settles O7: `crcFold` is the library's left fold. -/
theorem crcFoldsTheBytesInOrder : Obligations.CrcFoldsTheBytesInOrder := by
  unfold Obligations.CrcFoldsTheBytesInOrder
  exact ⟨fun p bs => congrArg (· ^^^ p.crcXorOut) (crcFold_eq_foldl _ _ bs), fun _ => rfl⟩

/-- Settles O8, by the law of the left fold. -/
theorem crcFoldOfConcatenation : Obligations.CrcFoldOfConcatenation := by
  unfold Obligations.CrcFoldOfConcatenation
  exact crcFold_append

/-! ### Linearity, and the byte table (R76) -/

/-- R68's one-bit step without the branch around the shift. -/
theorem crcBit_eq (poly a : U32) : crcBit poly a = (a >>> 1) ^^^ (if a.getLsbD 0 then poly else 0#32) := by
  unfold crcBit
  split
  · rfl
  · exact BitVec.xor_zero.symm

theorem crcBit_xor (poly a b : U32) : crcBit poly (a ^^^ b) = crcBit poly a ^^^ crcBit poly b := by
  have hfold : (if (a ^^^ b).getLsbD 0 then poly else 0#32) =
      (if a.getLsbD 0 then poly else 0#32) ^^^ (if b.getLsbD 0 then poly else 0#32) := by
    rw [BitVec.getLsbD_xor]
    cases a.getLsbD 0 <;> cases b.getLsbD 0 <;> simp
  rw [crcBit_eq, crcBit_eq, crcBit_eq, hfold, BitVec.ushiftRight_xor_distrib]
  ac_rfl

theorem crcBits_xor (poly : U32) (n : Nat) (a b : U32) :
    crcBits poly n (a ^^^ b) = crcBits poly n a ^^^ crcBits poly n b := by
  induction n generalizing a b with
  | zero => rfl
  | succ n ih => simp only [crcBits, crcBit_xor, ih]

/-- Low bits that are 0 shift out without touching the rest. -/
theorem crcBits_of_low_zero (poly : U32) {n : Nat} {a : U32} (h : ∀ i < n, a.getLsbD i = false) :
    crcBits poly n a = a >>> n := by
  induction n generalizing a with
  | zero => rfl
  | succ n ih =>
    have hbit : crcBit poly a = a >>> 1 := by
      rw [crcBit_eq, h 0 n.succ_pos]
      exact BitVec.xor_zero
    have hlow : ∀ i < n, (a >>> 1).getLsbD i = false := fun i hi => by
      rw [BitVec.getLsbD_ushiftRight]
      exact h _ (by omega)
    rw [crcBits, hbit, ih hlow, ← BitVec.shiftRight_add, Nat.add_comm]

/-- A byte lies in the low byte of the register. -/
theorem byte_shiftRight_eight (b : Byte) : b.setWidth 32 >>> 8 = 0#32 :=
  BitVec.eq_of_getLsbD_eq fun i _ => by simp

/-- Eight bit steps only shift the upper 24 bits, whatever they do with the low byte. -/
theorem crcBits_eight_eq_upper_xor_lowByte (poly x : U32) :
    crcBits poly 8 x = (x >>> 8) ^^^ crcBits poly 8 ((x.setWidth 8).setWidth 32) := by
  have hlow : ∀ i < 8, (x ^^^ (x.setWidth 8).setWidth 32).getLsbD i = false := fun i hi => by
    simp [hi, show i < 32 by omega]
  calc
    crcBits poly 8 x
      = crcBits poly 8 (x ^^^ (x.setWidth 8).setWidth 32) ^^^ crcBits poly 8 ((x.setWidth 8).setWidth 32) := by
        rw [← crcBits_xor, BitVec.xor_assoc, BitVec.xor_self, BitVec.xor_zero]
    _ = (x >>> 8) ^^^ crcBits poly 8 ((x.setWidth 8).setWidth 32) := by
        rw [crcBits_of_low_zero poly hlow, BitVec.ushiftRight_xor_distrib, byte_shiftRight_eight, BitVec.xor_zero]

/-- The byte-table form of CRC_STEP. -/
theorem crcStep_eq_table (poly acc : U32) (b : Byte) :
    crcStep poly acc b = (acc >>> 8) ^^^ crcStep poly 0#32 ((acc ^^^ b.setWidth 32).setWidth 8) := by
  rw [crcStep, crcStep, BitVec.zero_xor, crcBits_eight_eq_upper_xor_lowByte, BitVec.ushiftRight_xor_distrib,
    byte_shiftRight_eight, BitVec.xor_zero]

/-- Seven zero bits shift out, and the eighth step XORs the polynomial in. -/
theorem crcStep_zero_0x80 (poly : U32) : crcStep poly 0#32 0x80#8 = poly := by
  have hseven : crcBits poly 7 0x80#32 = 1#32 := crcBits_of_low_zero poly (n := 7) (by decide)
  calc
    crcStep poly 0#32 0x80#8 = crcBits poly 8 0x80#32 := rfl
    _ = crcBit poly (crcBits poly 7 0x80#32) := by
      rw [crcBits_eq_iterate, crcBits_eq_iterate, Function.iterate_succ_apply']
    _ = poly := by
      rw [hseven, crcBit_eq]
      exact BitVec.zero_xor

/-- Settles O10: the table form, its entry at 0x80, and E0's two entries by evaluation. -/
theorem crcStepByByteTable : Obligations.CrcStepByByteTable := by
  unfold Obligations.CrcStepByByteTable
  refine ⟨crcStep_eq_table, crcStep_zero_0x80, fun p hinit hxor => ?_, by decide, crcStep_zero_0x80 _⟩
  rw [crc, hinit, hxor, BitVec.xor_zero]
  exact crcStep_zero_0x80 p.crcPoly

/-! ### The residue (R75) -/

theorem crcStep_zero (poly : U32) : crcStep poly 0#32 0x00#8 = 0#32 :=
  crcBits_of_low_zero poly (n := 8) fun _ _ => BitVec.getLsbD_zero

/-- A register that meets its own low byte drops it. -/
theorem crcStep_own_low_byte (poly r : U32) : crcStep poly r (BitVec.ofNat 8 r.toNat) = r >>> 8 := by
  have hclear : (r ^^^ (r.setWidth 8).setWidth 32).setWidth 8 = 0x00#8 := by
    rw [BitVec.setWidth_xor, BitVec.setWidth_setWidth_of_le _ (by decide), BitVec.setWidth_eq, BitVec.xor_self]
  rw [BitVec.ofNat_toNat, crcStep_eq_table, hclear, crcStep_zero, BitVec.xor_zero]

/-- Folding in `n` of the register's own bytes, low byte first, shifts them out. -/
theorem crcFold_own_bytes (poly r : U32) (n : Nat) : crcFold poly r (leBytes n r.toNat) = r >>> (8 * n) := by
  induction n generalizing r with
  | zero => rfl
  | succ n ih =>
    have hnext : r.toNat / 256 = (r >>> 8).toNat := by
      rw [BitVec.toNat_ushiftRight, Nat.shiftRight_eq_div_pow]
    rw [leBytes, crcFold, crcStep_own_low_byte, hnext, ih, ← BitVec.shiftRight_add, Nat.mul_succ, Nat.add_comm]

theorem crcFold_own_word (poly r : U32) : crcFold poly r (leBytes 4 r.toNat) = 0#32 := by
  rw [crcFold_own_bytes]
  exact BitVec.ushiftRight_eq_zero (by decide)

theorem crcFold_append_crc {p : Params} (hxor : p.crcXorOut = 0#32) (bs : List Byte) :
    crcFold p.crcPoly p.crcInit (bs ++ leBytes 4 (crc p bs).toNat) = 0#32 := by
  rw [crcFold_append, crc, hxor, BitVec.xor_zero, crcFold_own_word]

/-- Settles O9: a frame is a sequence followed by its CRC. -/
theorem crcResidueIsZero : Obligations.CrcResidueIsZero := by
  unfold Obligations.CrcResidueIsZero
  exact ⟨crcFold_own_word, fun _ bs hxor => crcFold_append_crc hxor bs, fun _ _ _ hxor => crcFold_append_crc hxor _⟩

/-! ### No step loses information (R73) -/

/-- With polynomial bit 31 set, the result's bit 31 is the bit shifted out. -/
theorem getLsbD_31_crcBit {poly : U32} (hpoly : poly.getLsbD 31 = true) (a : U32) :
    (crcBit poly a).getLsbD 31 = a.getLsbD 0 := by
  have hshift : (a >>> 1).getLsbD 31 = false := by
    rw [BitVec.getLsbD_ushiftRight]
    exact BitVec.getLsbD_of_ge a _ (by decide)
  rw [crcBit_eq, BitVec.getLsbD_xor, hshift, Bool.false_xor]
  cases a.getLsbD 0 with
  | true => exact hpoly
  | false => exact BitVec.getLsbD_zero

theorem crcBit_injective {poly : U32} (hpoly : poly.getLsbD 31 = true) : Function.Injective (crcBit poly) := by
  intro a a' h
  have hlow : a.getLsbD 0 = a'.getLsbD 0 := by rw [← getLsbD_31_crcBit hpoly, h, getLsbD_31_crcBit hpoly]
  have hhigh : a >>> 1 = a' >>> 1 := by
    rw [crcBit_eq, crcBit_eq, hlow] at h
    exact (BitVec.xor_left_inj _).mp h
  refine BitVec.eq_of_getLsbD_eq fun i _ => ?_
  cases i with
  | zero => exact hlow
  | succ i =>
    rw [Nat.add_comm, ← BitVec.getLsbD_ushiftRight, hhigh, BitVec.getLsbD_ushiftRight]

theorem crcBits_injective {poly : U32} (hpoly : poly.getLsbD 31 = true) (n : Nat) :
    Function.Injective (crcBits poly n) :=
  crcBits_eq_iterate poly n ▸ (crcBit_injective hpoly).iterate n

theorem crcStep_register_injective {poly : U32} (hpoly : poly.getLsbD 31 = true) (b : Byte) :
    Function.Injective (crcStep poly · b) :=
  fun _ _ h => (BitVec.xor_left_inj _).mp (crcBits_injective hpoly 8 h)

theorem crcStep_byte_injective {poly : U32} (hpoly : poly.getLsbD 31 = true) (acc : U32) :
    Function.Injective (crcStep poly acc) := by
  intro b b' h
  have hwide : b.setWidth 32 = b'.setWidth 32 := (BitVec.xor_right_inj _).mp (crcBits_injective hpoly 8 h)
  simpa using congrArg (BitVec.setWidth 8) hwide

theorem crcFold_injective {poly : U32} (hpoly : poly.getLsbD 31 = true) (bs : List Byte) :
    Function.Injective (crcFold poly · bs) := by
  induction bs with
  | nil => exact Function.injective_id
  | cons b bs ih => exact ih.comp (crcStep_register_injective hpoly b)

/-- Settles O11: the registers differ after the changed byte, and every later step keeps them different. -/
theorem crcDetectsEverySingleByteChange : Obligations.CrcDetectsEverySingleByteChange := by
  unfold Obligations.CrcDetectsEverySingleByteChange
  intro p x y b b' hpoly hne hcrc
  have hfold : crcFold p.crcPoly p.crcInit (x ++ b :: y) = crcFold p.crcPoly p.crcInit (x ++ b' :: y) :=
    (BitVec.xor_left_inj _).mp hcrc
  rw [crcFold_append, crcFold_append] at hfold
  exact hne (crcStep_byte_injective hpoly _ (crcFold_injective hpoly y hfold))

/-! ### CRC_COMPUTE (R77) -/

/-- Settles O12: `execCrcCompute` is one `emit`, and a register of 0 stays 0 over a byte 0x00. -/
theorem crcComputeEmitsTheCrc : Obligations.CrcComputeEmitsTheCrc := by
  unfold Obligations.CrcComputeEmitsTheCrc
  exact ⟨fun _ _ hlen => ⟨fun ph rest => decodeEvent_crcCompute ph (decide_eq_true hlen) rest, rfl⟩, crcStep_zero⟩

end Sys2Proof.Machine

/-! ## Scope: the synchronizer and parser, event by event (41_sync_parser.md)

One equation for each storing event in the states where `cnt` is inside its buffer (R83 to R89), and one lemma for what
every other instruction leaves alone. That the table of R60 picks the event of R99's if-chain follows from the fields of
the key in HdrBuf. -/

namespace Sys2Proof.Machine

/-! ### Hunting (R79 to R82, R90) -/

/-- Settles O28: each row's meaning is the rule's own assignment. -/
theorem huntPhasesFollowTheSyncBytes : Obligations.HuntPhasesFollowTheSyncBytes := by
  unfold Obligations.HuntPhasesFollowTheSyncBytes
  exact fun _ _ _ => ⟨rfl, rfl, rfl, rfl, rfl, rfl⟩

/-- Settles O29: the three hunt phases share the row. -/
theorem timeoutWhileHuntingIsSkipped : Obligations.TimeoutWhileHuntingIsSkipped := by
  unfold Obligations.TimeoutWhileHuntingIsSkipped
  intro s ph rest hph
  refine ⟨?_, rfl⟩
  rcases hph with rfl | rfl | rfl <;> rfl

/-- Settles O35: the three collecting phases share the row. -/
theorem timeoutWhileCollectingIsAShortRead : Obligations.TimeoutWhileCollectingIsAShortRead := by
  unfold Obligations.TimeoutWhileCollectingIsAShortRead
  intro s ph rest hph
  refine ⟨?_, rfl⟩
  rcases hph with rfl | rfl | rfl <;> rfl

/-- Setting the phase to what it is changes nothing. -/
theorem State.setPhase_self {s : State} {ph : Phase} (h : s.phase = ph) : s.setPhase ph = s := by
  subst h
  rfl

/-- R80: each 0xAA of a run keeps HUNT1, and only the port changes. -/
theorem runSteps_first_sync_bytes {s : State} (hp : s.phase = .hunt1) (n : Nat) (bs : List Byte) :
    runSteps n (s.receiving (List.replicate n 0xAA#8 ++ bs)) = .next (s.receiving bs) := by
  induction n with
  | zero => rfl
  | succ n ih =>
    have hstep : step (s.receiving (0xAA#8 :: (List.replicate n 0xAA#8 ++ bs))) =
        .next (s.receiving (List.replicate n 0xAA#8 ++ bs)) := by
      rw [step_receiving, hp]
      exact congrArg Host.Outcome.next (State.setPhase_self (s := s.receiving _) hp)
    rw [List.replicate_succ, List.cons_append, runSteps_succ hstep, ih]

/-- Settles O39: after the run of 0xAA the two bytes left complete the sync. -/
theorem repeatedFirstSyncByteKeepsTheSync : Obligations.RepeatedFirstSyncByteKeepsTheSync := by
  unfold Obligations.RepeatedFirstSyncByteKeepsTheSync
  intro s n hp
  have hsecond : step (s.receiving [0x44#8, 0x12#8]) = .next ((s.setPhase .hunt2).receiving [0x12#8]) := by
    rw [step_receiving, hp]
    rfl
  rw [runSteps_add (runSteps_first_sync_bytes hp n _), runSteps_succ hsecond]
  rfl

/-! ### The three storing events (R83 to R89) -/

/-- Inside its buffer the byte is stored, and the event goes on from there. -/
theorem andThen_storeByte {n : BufName} {s : State} (hc : s.cnt.toNat < n.cap) (b : Byte)
    (f : State → Host.Outcome State Fault Refusal) : andThen (storeByte n b s) f = f (s.stored n b) := by
  rw [storeByte_next hc]
  rfl

/-- The byte stored is the `k + 1`st of its buffer exactly where `cnt` was `k`. -/
theorem State.stored_cnt_eq_iff {n : BufName} {s : State} (hc : s.cnt.toNat < n.cap) (b : Byte) {k : Nat}
    (hk : k < 65535) : (s.stored n b).cnt = BitVec.ofNat 16 (k + 1) ↔ s.cnt.toNat = k := by
  rw [BitVec.toNat_eq, State.stored_cnt_toNat hc, BitVec.toNat_ofNat]
  omega

/-- RX_BYTE in HDR (R83, R84). -/
theorem exec_rxByteHdr {s : State} (hc : s.cnt.toNat < 25) (b : Byte) :
    exec (.rxByteHdr b) s =
      .next (if s.cnt.toNat = 24 then headerComplete (s.stored .hdrBuf b) else s.stored .hdrBuf b) := by
  have hlast := State.stored_cnt_eq_iff (n := .hdrBuf) hc b (k := 24) (by decide)
  simp only [exec, execRxByteHdr, andThen_storeByte (n := .hdrBuf) hc, hlast]

/-- RX_BYTE in PAY (R85). -/
theorem exec_rxBytePay {s : State} (hc : s.cnt.toNat < 65535) (b : Byte) :
    exec (.rxBytePay b) s =
      .next (if s.cnt + 1#16 = s.plen then ((s.stored .payBuf b).setCnt 0#16).setPhase .cks
        else s.stored .payBuf b) :=
  andThen_storeByte (n := .payBuf) hc b _

/-- RX_BYTE in CKS (R86). -/
theorem exec_rxByteCks {s : State} (hc : s.cnt.toNat < 4) (b : Byte) :
    exec (.rxByteCks b) s =
      if s.cnt.toNat = 3 then frameCheck (s.stored .rxCrc b) else .next (s.stored .rxCrc b) := by
  have hlast := State.stored_cnt_eq_iff (n := .rxCrc) hc b (k := 3) (by decide)
  simp only [exec, execRxByteCks, andThen_storeByte (n := .rxCrc) hc, hlast]

/-- The fourth checksum byte starts the frame check (R87). -/
theorem exec_rxByteCks_last {s : State} (hc : s.cnt = 3#16) (b : Byte) :
    exec (.rxByteCks b) s = frameCheck (s.withLastSum b) := by
  have h3 : s.cnt.toNat = 3 := congrArg BitVec.toNat hc
  rw [exec_rxByteCks (by omega), if_pos h3]
  rfl

/-- The state with the fourth checksum byte stored, field by field. -/
theorem State.withLastSum_eq {s : State} (hc : s.cnt = 3#16) (b : Byte) :
    s.withLastSum b = { s with rxCrc := Memory.write s.rxCrc 3 b, cnt := 4#16 } := by
  rw [State.withLastSum, hc]
  rfl

/-- Settles O30: the 25th byte, and only that, completes the header. -/
theorem headerByteIsStoredAndCompletesTheHeader : Obligations.HeaderByteIsStoredAndCompletesTheHeader := by
  unfold Obligations.HeaderByteIsStoredAndCompletesTheHeader
  refine fun s b rest => ⟨rfl, fun hc => ?_, fun hc => ?_⟩
  · rw [exec_rxByteHdr (by omega), if_neg (by omega)]
    rfl
  · rw [exec_rxByteHdr (by omega), if_pos hc, State.stored, hc]
    rfl

/-- Settles O31: `exec_rxBytePay` is the rule. -/
theorem payloadByteIsStoredAndCompletesThePayload : Obligations.PayloadByteIsStoredAndCompletesThePayload := by
  unfold Obligations.PayloadByteIsStoredAndCompletesThePayload
  exact fun s b rest => ⟨rfl, fun hc => exec_rxBytePay hc b⟩

/-- Settles O32: before the fourth byte there is only the store. -/
theorem checksumByteIsStored : Obligations.ChecksumByteIsStored := by
  unfold Obligations.ChecksumByteIsStored
  refine fun s b rest => ⟨rfl, fun hc => ?_⟩
  rw [exec_rxByteCks (by omega), if_neg (by omega)]
  rfl

/-- Settles O33: the check compares these two values, and rejects. -/
theorem mismatchedFrameIsRejected : Obligations.MismatchedFrameIsRejected := by
  unfold Obligations.MismatchedFrameIsRejected
  rintro s b _ _ hc rfl rfl hne
  rw [exec_rxByteCks_last hc, State.withLastSum_eq hc, frameCheck_eq]
  exact congrArg _ (if_neg hne)

/-! ### Accepting a frame (R88, R96 to R99) -/

/-- Accepting runs the frame kind of the key after FRAME_OK and GPS_TIME, then hunts. -/
theorem acceptFrame_eq (s : State) :
    acceptFrame s =
      andThen (exec (keyInstr s.key) (s.emit [.frameOk, s.gpsTimeEvent])) fun t => .next t.hunt := by
  rw [acceptFrame, decodeFrame, dispatchFrame_eq_exec, State.emit_key, State.emit_gpsTimeEvent, State.emit_emit]
  rfl

/-- Settles O22: the fourth checksum byte changes nothing that the decoder reads. -/
theorem acceptingStepRunsTheFrameKind : Obligations.AcceptingStepRunsTheFrameKind := by
  unfold Obligations.AcceptingStepRunsTheFrameKind
  intro s b hc hcrc
  have hkind := (dispatchFrame_eq_exec s.key
    ((s.withLastSum b).emit [.frameOk, .gpsTime s.hdrWeek s.hdrMs s.hdrTstat])).symm.trans (dispatchFrame_eq _ _)
  refine ⟨_, hkind, ?_⟩
  rw [exec_rxByteCks_last hc, frameCheck, if_pos hcrc, acceptFrame_eq]
  exact congrArg (andThen · fun t => .next t.hunt) hkind

/-- The key's message id is the header's (R59, R97). -/
theorem State.keyId_key (s : State) : keyId s.key = s.msgId := by
  rw [BitVec.toNat_eq]
  simp only [keyId, State.key, State.msgId, le3, le2, Memory.slice, leNat, BitVec.extractLsb'_toNat,
    BitVec.toNat_ofNat, Nat.shiftRight_zero]
  omega

/-- The key's response flag is bit 7 of the header's type byte (R59, R97). -/
theorem State.keyResp_key (s : State) : keyResp s.key = s.isResponse := by
  have h1 := (Memory.read s.hdrBuf 1).isLt
  have h2 := (Memory.read s.hdrBuf 2).isLt
  simp only [keyResp, State.key, State.isResponse, State.msgType, le3, le1, Memory.slice, leNat, Nat.reduceAdd,
    BitVec.getLsbD, BitVec.toNat_ofNat, Nat.testBit_eq_decide_div_mod_eq, decide_eq_decide]
  omega

/-- R99 in terms of R60: every key's frame kind is that of its fields. -/
theorem keyInstr_eq_frameKind (k : Key) : keyInstr k = frameKind (keyId k) (keyType k) (keyResp k) := by
  rw [← keyInstr_mkKey, mkKey_fields]

/-- The frame kind of a key emits the key's event. -/
theorem State.eventsOf_keyInstr (s : State) (k : Key) : s.eventsOf (keyInstr k) = [s.kindEvent k] := by
  unfold keyInstr State.kindEvent
  cases rxKind k <;> rfl

/-- The branch of R99's if-chain for a response with a navigation id is the outcome of R104. -/
theorem State.frameEvent_of_navResponse {s : State} (hid : s.msgId = 244#16 ∨ s.msgId = 241#16)
    (hr : s.isResponse = true) : s.frameEvent = s.respNavEvent s.msgId := by
  have h1 : s.msgId ≠ 1#16 := by rcases hid with h | h <;> rw [h] <;> decide
  have hnot : ¬s.isResponse = false := by rw [hr]; decide
  unfold State.frameEvent State.respNavEvent
  refine (if_neg fun h => h1 h.1).trans <| (if_neg fun h => hnot h.2).trans <| (if_neg fun h => h1 h.1).trans <|
    (if_pos ⟨hid, hr⟩).trans ?_
  cases s.params.respNav <;> rfl

/-- The frame kind of the header's id and response flag emits the event of R99's if-chain. -/
theorem State.eventsOf_frameKind (s : State) (t : BitVec 7) :
    s.eventsOf (frameKind s.msgId t s.isResponse) = [s.frameEvent] := by
  by_cases h1 : s.msgId = 1#16
  · cases hr : s.isResponse <;> simp [frameKind, State.frameEvent, h1, hr, State.eventsOf]
  by_cases h244 : s.msgId = 244#16
  · cases hr : s.isResponse with
    | false => simp [frameKind, State.frameEvent, h244, hr, State.eventsOf]
    | true =>
      rw [State.frameEvent_of_navResponse (.inl h244) hr, h244]
      rfl
  by_cases h241 : s.msgId = 241#16
  · cases hr : s.isResponse with
    | false => simp [frameKind, State.frameEvent, h241, hr, State.eventsOf]
    | true =>
      rw [State.frameEvent_of_navResponse (.inr h241) hr, h241]
      rfl
  · simp [frameKind, State.frameEvent, h1, h244, h241, State.eventsOf]

/-- The table of R60 and the if-chain of R99 give an accepted frame the same event. -/
theorem State.kindEvent_key (s : State) : s.kindEvent s.key = s.frameEvent := by
  have h := s.eventsOf_keyInstr s.key
  rw [keyInstr_eq_frameKind, State.keyId_key, State.keyResp_key, State.eventsOf_frameKind] at h
  exact (List.cons.inj h).1.symm

/-- Settles O34: the check compares these two values and accepts, and the key's event is `frameEvent`. -/
theorem matchingFrameIsAcceptedAndDecoded : Obligations.MatchingFrameIsAcceptedAndDecoded := by
  unfold Obligations.MatchingFrameIsAcceptedAndDecoded
  intro s b hc hcrc
  refine ⟨s.draws + kindDraws s.params s.key, ?_⟩
  rw [exec_rxByteCks_last hc, State.withLastSum_eq hc, frameCheck_eq]
  refine congrArg _ ((if_pos hcrc).trans ?_)
  rw [State.accepted, State.kindEvent_key]
  rfl

/-! ### What the storing events leave alone (R83, R85, R86) -/

/-- A store changes one byte. -/
theorem State.stored_sameBuffersBut (n : BufName) (b : Byte) (s : State) :
    State.sameBuffersBut n s.cnt.toNat s (s.stored n b) := by
  intro k a hne
  by_cases hk : k = n
  · subst hk
    rw [State.stored_buf_self, Memory.read_write_ne fun ha => hne ⟨rfl, ha⟩]
  · rw [State.stored_buf_ne hk]

/-- The frame check writes no buffer (R87 to R89, R111). -/
theorem frameCheck_buf {s t : State} (h : frameCheck s = .next t) (k : BufName) : t.buf k = s.buf k := by
  rw [frameCheck_eq] at h
  obtain rfl := Host.Outcome.next.inj h
  split
  · simp [State.accepted]
  · simp [rejectFrame]

/-- What a storing event does after its store writes no buffer. -/
theorem exec_storing_buf {s t : State} {i : Instr} {n : BufName} {b : Byte}
    (hi : (i = .rxByteHdr b ∧ n = .hdrBuf) ∨ (i = .rxBytePay b ∧ n = .payBuf) ∨ (i = .rxByteCks b ∧ n = .rxCrc))
    (h : exec i s = .next t) (k : BufName) : t.buf k = (s.stored n b).buf k := by
  rcases hi with ⟨rfl, rfl⟩ | ⟨rfl, rfl⟩ | ⟨rfl, rfl⟩
  · obtain ⟨-, ht⟩ := andThen_storeByte_eq_next.mp h
    obtain rfl := Host.Outcome.next.inj ht
    split
    · simp [headerComplete]
    · rfl
  · obtain ⟨-, ht⟩ := andThen_storeByte_eq_next.mp h
    obtain rfl := Host.Outcome.next.inj ht
    split
    · simp
    · rfl
  · obtain ⟨-, ht⟩ := andThen_storeByte_eq_next.mp h
    split at ht
    · exact frameCheck_buf ht k
    · obtain rfl := Host.Outcome.next.inj ht
      rfl

/-- Settles O37: the buffers are those after the store. -/
theorem storingEventsChangeOneByte : Obligations.StoringEventsChangeOneByte := by
  unfold Obligations.StoringEventsChangeOneByte
  intro s t i n b hinv hi h
  have hbuf := exec_storing_buf hi h
  refine ⟨fun k a hne => ?_, ?_, exec_keeps_ports h⟩
  · rw [hbuf, s.stored_sameBuffersBut n b k a hne]
  · rw [hbuf, State.stored_buf_self, Memory.read_write_self (hinv.bufWf n)]

/-! ### What every other instruction leaves alone (R79 to R82, R90, R95, R111, R119) -/

/-- No other instruction writes a buffer; RESET alone among them writes `plen`, and only RX_BYTE in a hunt phase,
RX_TIMEOUT while collecting and RESET write `phase` or `cnt`. -/
theorem exec_keeps_rx_parts {s t : State} {i : Instr} (h : exec i s = .next t)
    (hstore : ∀ b, i ≠ .rxByteHdr b ∧ i ≠ .rxBytePay b ∧ i ≠ .rxByteCks b) :
    (∀ k, t.buf k = s.buf k) ∧ (i ≠ .reset → t.plen = s.plen) ∧
    ((∀ b, i ≠ .rxByteHunt0 b ∧ i ≠ .rxByteHunt1 b ∧ i ≠ .rxByteHunt2 b) → i ≠ .rxTimeoutCollect → i ≠ .reset →
      t.phase = s.phase ∧ t.cnt = s.cnt) := by
  cases i with
  | rxByteHdr b => exact absurd rfl (hstore b).1
  | rxBytePay b => exact absurd rfl (hstore b).2.1
  | rxByteCks b => exact absurd rfl (hstore b).2.2
  | rxByteHunt0 b =>
    obtain rfl := Host.Outcome.next.inj h
    exact ⟨fun k => by simp, fun _ => rfl, fun hhunt => absurd rfl (hhunt b).1⟩
  | rxByteHunt1 b =>
    obtain rfl := Host.Outcome.next.inj h
    exact ⟨fun k => by simp, fun _ => rfl, fun hhunt => absurd rfl (hhunt b).2.1⟩
  | rxByteHunt2 b =>
    obtain rfl := Host.Outcome.next.inj h
    refine ⟨fun k => ?_, fun _ => ?_, fun hhunt => absurd rfl (hhunt b).2.2⟩
    · split <;> simp
    · split <;> rfl
  | rxTimeoutCollect =>
    obtain rfl := Host.Outcome.next.inj h
    exact ⟨fun k => by simp, fun _ => rfl, fun _ hcollect => absurd rfl hcollect⟩
  | reset =>
    obtain rfl := Host.Outcome.next.inj h
    exact ⟨fun k => by simp, fun hreset => absurd rfl hreset, fun _ _ hreset => absurd rfl hreset⟩
  | resp244 ty | resp241 ty =>
    obtain rfl := Host.Outcome.next.inj h
    rw [emitRespNav_eq]
    exact ⟨fun k => by simp, fun _ => rfl, fun _ _ _ => ⟨rfl, rfl⟩⟩
  | _ =>
    obtain rfl := Host.Outcome.next.inj h
    exact ⟨fun k => by cases k <;> rfl, fun _ => rfl, fun _ _ _ => ⟨rfl, rfl⟩⟩

/-- Settles O38: with the ports of `exec_keeps_ports`. -/
theorem otherInstructionsChangeNoBuffer : Obligations.OtherInstructionsChangeNoBuffer := by
  unfold Obligations.OtherInstructionsChangeNoBuffer
  intro s t i h hstore
  obtain ⟨hbuf, hplen, hphase⟩ := exec_keeps_rx_parts h hstore
  obtain ⟨hparams, hinput⟩ := exec_keeps_ports h
  exact ⟨fun k a => by rw [hbuf], hparams, hinput, hplen, hphase⟩

/-! ### Commands beside reception (R95) -/

/-- A CRC or encoder operation emits one event and does nothing else. -/
theorem exec_transmits {e : Instr} (he : transmits e = true) (s : State) : ∃ ev, exec e s = .next (s.emit [ev]) := by
  cases e with
  | crcCompute | encFrame | encStopLog | encStartLog | cmdStopLog | cmdStartLog => exact ⟨_, rfl⟩
  | _ => cases he

/-- Settles O53: the state differs in its output only, and what is emitted does not feed back (`exec_emits`). -/
theorem commandsDoNotDisturbReception : Obligations.CommandsDoNotDisturbReception := by
  unfold Obligations.CommandsDoNotDisturbReception
  intro e s u he hu
  obtain ⟨ev, hev⟩ := exec_transmits he s
  obtain rfl := Host.Outcome.next.inj (hev.symm.trans hu)
  refine ⟨rfl, fun i t ht => ?_⟩
  exact ⟨t.withOutput (s.output ++ [ev] ++ s.eventsOf i), s.eventsOf i, exec_emits i s t _ ht, rfl,
    (exec_emits i).output ht, rfl⟩

end Sys2Proof.Machine

/-! ## Scope: the message decoder (42_decoder.md)

A key's frame kind follows from its message id and its response flag alone (R59, R99). The decode event reads the
payload only through the fields of R106, each where it fits and as a free value where it does not (R107), and it is all
that a frame kind adds to the state (R111). -/

namespace Sys2Proof.Machine

/-! ### Which keys select a frame kind (R99 to R105) -/

/-- The fields of a key decide between the frame kinds as R99's if-chain does. -/
theorem frameKind_eq_dispatchChain (id : U16) (t : BitVec 7) (resp : Bool) :
    frameKind id t resp =
      if id = 1#16 ∧ resp = true then .logAck t
      else if id = 244#16 ∧ resp = false then .nav244 t
      else if id = 241#16 ∧ resp = false then .nav241 t
      else if id = 1#16 ∧ resp = false then .nav1Quirk t
      else if id = 244#16 ∧ resp = true then .resp244 t
      else if id = 241#16 ∧ resp = true then .resp241 t
      else .unexpected id resp t := by
  by_cases h1 : id = 1#16
  · cases resp <;> simp [frameKind, h1]
  by_cases h244 : id = 244#16
  · cases resp <;> simp [frameKind, h244]
  by_cases h241 : id = 241#16
  · cases resp <;> simp [frameKind, h241]
  · simp [frameKind, h1, h244, h241]

/-- Settles O17: both depend on the key by its fields only. -/
theorem keyTableAgreesWithTheDispatchChain : Obligations.KeyTableAgreesWithTheDispatchChain := by
  unfold Obligations.KeyTableAgreesWithTheDispatchChain
  intro k
  rw [keyInstr_eq_frameKind, frameKind_eq_dispatchChain]

/-- A key that a row's match and mask select has the frame kind of the row's id and response flag. -/
theorem keyInstr_of_and_mask {k : Key} {id : U16} {resp : Bool} (h : k &&& 0x80FFFF#24 = mkKey id 0#7 resp) :
    keyInstr k = frameKind id (keyType k) resp := by
  rw [← mkKey_fields k, mkKey_and_mask, mkKey_inj] at h
  obtain ⟨hid, -, hresp⟩ := h
  rw [keyInstr_eq_frameKind, hid, hresp]

/-! ### What a frame kind does (R100 to R105, R111) -/

/-- The frame kind of a key emits the key's event and draws its free values, and does nothing else. -/
theorem exec_keyInstr (k : Key) (s : State) :
    exec (keyInstr k) s = .next ((s.emit [s.kindEvent k]).addDraws (kindDraws s.params k)) := by
  rw [← dispatchFrame_eq_exec, dispatchFrame_eq]

/-- The event does not depend on what has been emitted. -/
@[simp] theorem State.emit_kindEvent (evs : List OutEvent) (s : State) (k : Key) :
    (s.emit evs).kindEvent k = s.kindEvent k := rfl

/-- Settles O48: with the draws set back, the state after a frame kind is the one before with the event emitted, and the
event does not depend on that. -/
theorem frameKindsKeepTheReceiveState : Obligations.FrameKindsKeepTheReceiveState := by
  unfold Obligations.FrameKindsKeepTheReceiveState
  intro s t k h
  rw [exec_keyInstr] at h
  obtain rfl := Host.Outcome.next.inj h
  refine ⟨rfl, rfl, rfl, ?_⟩
  have hback : { (s.emit [s.kindEvent k]).addDraws (kindDraws s.params k) with draws := s.draws } =
      s.emit [s.kindEvent k] := rfl
  have hevent : (s.output ++ [s.kindEvent k]).drop s.output.length = [s.kindEvent k] := List.drop_left
  rw [hback, exec_keyInstr, State.emit_kindEvent, State.addDraws_output, State.emit_output, hevent]
  rfl

/-! ### Fields of another payload buffer (R108) -/

section OtherPayload

variable {n o : Nat} {m : Memory} {s : State}

theorem State.payU32_setPayBuf (h : Memory.sameBelow n s.payBuf m) (ho : o + 4 ≤ n) (k : Nat) :
    (s.setBuf .payBuf m).payU32 k o = s.payU32 k o :=
  congrArg (fun v => if s.fits o 4 then v else (Config.freeField (s.draws + k)).setWidth 32) (h.le4_eq ho)

theorem State.payU64_setPayBuf (h : Memory.sameBelow n s.payBuf m) (ho : o + 8 ≤ n) (k : Nat) :
    (s.setBuf .payBuf m).payU64 k o = s.payU64 k o :=
  congrArg (fun v => if s.fits o 8 then v else Config.freeField (s.draws + k)) (h.le8_eq ho)

theorem State.payU8_setPayBuf (h : Memory.read m o = Memory.read s.payBuf o) (k : Nat) :
    (s.setBuf .payBuf m).payU8 k o = s.payU8 k o :=
  congrArg (fun v => if s.fits o 1 then v else (Config.freeField (s.draws + k)).setWidth 8) h

theorem State.ackStatus_setPayBuf (h : Memory.sameBelow n s.payBuf m) (hn : 4 ≤ n) :
    (s.setBuf .payBuf m).ackStatus = s.ackStatus :=
  State.payU32_setPayBuf h hn 0

@[simp] theorem State.hdrTstat_setPayBuf : (s.setBuf .payBuf m).hdrTstat = s.hdrTstat := rfl
@[simp] theorem State.hdrWeek_setPayBuf : (s.setBuf .payBuf m).hdrWeek = s.hdrWeek := rfl
@[simp] theorem State.hdrMs_setPayBuf : (s.setBuf .payBuf m).hdrMs = s.hdrMs := rfl

/-- The sample's payload fields lie below 88, but for the satellite count at 104. -/
theorem State.navFields_setPayBuf (h : Memory.sameBelow 88 s.payBuf m)
    (h104 : Memory.read m 104 = Memory.read s.payBuf 104) : (s.setBuf .payBuf m).navFields = s.navFields := by
  simp (disch := decide) only [State.navFields, State.hdrTstat_setPayBuf, State.hdrWeek_setPayBuf,
    State.hdrMs_setPayBuf, State.payU32_setPayBuf h, State.payU64_setPayBuf h, State.payU8_setPayBuf h104]

theorem State.kindEvent_setPayBuf (h : Memory.sameBelow 88 s.payBuf m)
    (h104 : Memory.read m 104 = Memory.read s.payBuf 104) (k : Key) :
    (s.setBuf .payBuf m).kindEvent k = s.kindEvent k := by
  simp only [State.kindEvent, State.respNavEvent, State.setBuf_params, State.navFields_setPayBuf h h104,
    State.ackStatus_setPayBuf h (by decide)]

end OtherPayload

/-- Settles O47: both states emit the same event, and a frame kind writes no buffer. -/
theorem uncoveredPayloadBytesChangeNothing : Obligations.UncoveredPayloadBytesChangeNothing := by
  unfold Obligations.UncoveredPayloadBytesChangeNothing
  refine ⟨fun s t m k hread h => ?_, fun s t m ty hread h => ?_⟩
  · rw [exec_keyInstr] at h
    obtain rfl := Host.Outcome.next.inj h
    have hevent := State.kindEvent_setPayBuf (fun a ha => hread a (.inl ha)) (hread 104 (.inr rfl)) k
    refine (exec_keyInstr k (s.setBuf .payBuf m)).trans ?_
    rw [hevent]
    rfl
  · obtain rfl := Host.Outcome.next.inj h
    show Host.Outcome.next (emitAck (s.setBuf .payBuf m)) = _
    rw [emitAck, State.ackStatus_setPayBuf hread (Nat.le_refl 4)]
    rfl

/-! ### Fields that fit the payload (R106, R107) -/

section FittingFields

variable {s : State} {k o : Nat}

theorem State.payU8_of_fits (h : o + 1 ≤ s.plen.toNat) : s.payU8 k o = le1 s.payBuf o := if_pos (decide_eq_true h)

theorem State.payU32_of_fits (h : o + 4 ≤ s.plen.toNat) : s.payU32 k o = le4 s.payBuf o := if_pos (decide_eq_true h)

theorem State.payU64_of_fits (h : o + 8 ≤ s.plen.toNat) : s.payU64 k o = le8 s.payBuf o := if_pos (decide_eq_true h)

end FittingFields

/-- R107: each field's threshold is its offset and its size. -/
theorem State.navFields_exactWhereFits (s : State) : exactWhereFits s s.navFields where
  tstat := rfl
  week := rfl
  ms := rfl
  posStatus := State.payU32_of_fits
  posType := State.payU32_of_fits
  posX := State.payU64_of_fits
  posY := State.payU64_of_fits
  posZ := State.payU64_of_fits
  perrX := State.payU32_of_fits
  perrY := State.payU32_of_fits
  perrZ := State.payU32_of_fits
  velStatus := State.payU32_of_fits
  velType := State.payU32_of_fits
  velX := State.payU64_of_fits
  velY := State.payU64_of_fits
  velZ := State.payU64_of_fits
  verrX := State.payU32_of_fits
  verrY := State.payU32_of_fits
  verrZ := State.payU32_of_fits
  numSats := State.payU8_of_fits

/-- Every field lies below 105, so a payload that long leaves no value free. -/
theorem exactWhereFits.eq_exactNav {s : State} {f : NavFields} (h : exactWhereFits s f) (hlen : 105 ≤ s.plen.toNat) :
    f = s.exactNav := by
  cases f
  simp only [State.exactNav, NavFields.mk.injEq]
  refine ⟨h.tstat, h.week, h.ms, h.posStatus ?_, h.posType ?_, h.posX ?_, h.posY ?_, h.posZ ?_, h.perrX ?_, h.perrY ?_,
    h.perrZ ?_, h.velStatus ?_, h.velType ?_, h.velX ?_, h.velY ?_, h.velZ ?_, h.verrX ?_, h.verrY ?_, h.verrZ ?_,
    h.numSats ?_⟩ <;> omega

/-! ### The events of the frame kinds (R100 to R105) -/

/-- Settles O42: with the status read where it fits. -/
theorem logAckEmitsStatusAndClass : Obligations.LogAckEmitsStatusAndClass := by
  unfold Obligations.LogAckEmitsStatusAndClass
  exact ⟨fun k h => keyInstr_of_and_mask (id := 1#16) (resp := true) h,
    fun s t => ⟨s.ackStatus, s.draws + 1, rfl, State.payU32_of_fits⟩⟩

/-- Settles O43: a payload of 105 bytes holds every field. -/
theorem navFramesEmitTheExactSample : Obligations.NavFramesEmitTheExactSample := by
  unfold Obligations.NavFramesEmitTheExactSample
  intro s t hlen
  have hsample (id : U16) : emitNav id s = (s.emit [.navSample id s.exactNav]).addDraws navDraws := by
    rw [emitNav, s.navFields_exactWhereFits.eq_exactNav hlen]
  exact ⟨⟨_, congrArg _ (hsample 244#16)⟩, ⟨_, congrArg _ (hsample 241#16)⟩, ⟨_, congrArg _ (hsample 1#16)⟩⟩

/-- Settles O44: the three kinds emit the sample of `navFields`. -/
theorem navFramesKeepTheFieldsThatFit : Obligations.NavFramesKeepTheFieldsThatFit := by
  unfold Obligations.NavFramesKeepTheFieldsThatFit
  refine ⟨fun k => ⟨keyInstr_of_and_mask (id := 244#16) (resp := false),
    keyInstr_of_and_mask (id := 241#16) (resp := false), keyInstr_of_and_mask (id := 1#16) (resp := false)⟩, ?_⟩
  intro s t i id hi
  have hexec : exec i s = .next (emitNav id s) := by
    rcases hi with ⟨rfl, rfl⟩ | ⟨rfl, rfl⟩ | ⟨rfl, rfl⟩ <;> rfl
  exact ⟨s.navFields, s.draws + navDraws, hexec, s.navFields_exactWhereFits⟩

/-- Settles O45: the two kinds do what P_RESP_NAV selects. -/
theorem navResponsesFollowTheParameter : Obligations.NavResponsesFollowTheParameter := by
  unfold Obligations.NavResponsesFollowTheParameter
  refine ⟨fun k => ⟨keyInstr_of_and_mask (id := 244#16) (resp := true),
    keyInstr_of_and_mask (id := 241#16) (resp := true)⟩, ?_⟩
  intro s t i id hi
  have hexec : exec i s = .next (emitRespNav id s) := by
    rcases hi with ⟨rfl, rfl⟩ | ⟨rfl, rfl⟩ <;> rfl
  refine ⟨fun hresp => ?_, fun hresp => ⟨s.navFields, s.draws + navDraws, ?_, s.navFields_exactWhereFits⟩⟩
  · rw [hexec, emitRespNav, hresp]
    rfl
  · rw [hexec, emitRespNav, hresp]
    rfl

/-- Settles O46: another id is well-formed as an unexpected one (R61). -/
theorem unexpectedFramesAreReported : Obligations.UnexpectedFramesAreReported := by
  unfold Obligations.UnexpectedFramesAreReported
  refine ⟨fun k h1 h244 h241 => ?_, fun _ _ _ _ => rfl⟩
  rw [keyInstr_eq_frameKind, frameKind_of_unexpectedId (unexpectedId_iff.mpr ⟨h1, h241, h244⟩)]

end Sys2Proof.Machine

/-! ## Scope: a frame from its first byte to its last (41_sync_parser.md R79 to R87)

The bytes of a buffer are collected in one run (`runSteps_collecting`), after which the buffer reads as those bytes. So
a candidate whose payload has the stated length ends in the frame check of the state that holds its three parts. -/

namespace Sys2Proof.Machine

/-! ### A run of bytes written to a buffer -/

/-- The buffer after the bytes are written one by one, the first at index `o`. -/
def Memory.writeAll (m : Memory) (o : Nat) : List Byte → Memory
  | [] => m
  | b :: bs => Memory.writeAll (Memory.write m o b) (o + 1) bs

theorem Memory.read_writeAll_below {o a : Nat} (h : a < o) (m : Memory) (bs : List Byte) :
    Memory.read (Memory.writeAll m o bs) a = Memory.read m a := by
  induction bs generalizing m o with
  | nil => rfl
  | cons b bs ih => rw [Memory.writeAll, ih (by omega), Memory.read_write_ne (by omega)]

/-- Bytes written inside the buffer are read back. -/
theorem Memory.slice_writeAll {cap o : Nat} {m : Memory} {bs : List Byte} (hm : Memory.wf cap m = true)
    (hcap : o + bs.length ≤ cap) : Memory.slice (Memory.writeAll m o bs) o bs.length = bs := by
  induction bs generalizing m o with
  | nil => rfl
  | cons b bs ih =>
    rw [List.length_cons] at hcap
    rw [List.length_cons, Memory.slice, Memory.writeAll, Memory.read_writeAll_below (by omega),
      Memory.read_write_self hm, ih (Memory.write_wf hm (by omega) b) (by omega)]

/-! ### Collecting the bytes of one buffer (R83, R85, R86) -/

/-- The state after the bytes are stored, the first at `cnt`. -/
def State.storedAll (n : BufName) (bs : List Byte) (s : State) : State :=
  (s.setBuf n (Memory.writeAll (s.buf n) s.cnt.toNat bs)).setCnt (s.cnt + BitVec.ofNat 16 bs.length)

theorem State.storedAll_nil (n : BufName) (s : State) : s.storedAll n [] = s := by
  rw [State.storedAll, List.length_nil, BitVec.add_zero]
  cases n <;> rfl

theorem State.storedAll_cons {n : BufName} {s : State} (hc : s.cnt.toNat < n.cap) (b : Byte) (bs : List Byte) :
    s.storedAll n (b :: bs) = (s.stored n b).storedAll n bs := by
  have hcnt : s.cnt + BitVec.ofNat 16 (b :: bs).length = s.cnt + 1#16 + BitVec.ofNat 16 bs.length := by
    rw [List.length_cons, Nat.add_comm, BitVec.ofNat_add, BitVec.add_assoc]
  rw [State.storedAll, State.storedAll, State.stored_cnt_toNat hc, State.stored_buf_self, Memory.writeAll, hcnt]
  cases n <;> rfl

/-- How many bytes the buffer is to hold. -/
def State.goal (s : State) : BufName → U16
  | .hdrBuf => 25#16
  | .payBuf => s.plen
  | .rxCrc => 4#16

theorem State.goal_le_cap (s : State) (n : BufName) : (s.goal n).toNat ≤ n.cap := by
  cases n with
  | payBuf => exact Nat.le_of_lt_succ s.plen.isLt
  | _ => exact Nat.le_refl _

theorem State.stored_goal (n k : BufName) (b : Byte) (s : State) : (s.stored n b).goal k = s.goal k := by
  cases k with
  | payBuf => exact State.stored_plen n b s
  | _ => rfl

/-- What RX_BYTE does after the store: with the buffer complete it goes on to the next part of the frame. -/
def BufName.afterStore : BufName → State → Host.Outcome State Fault Refusal
  | .hdrBuf, s => .next (if s.cnt = 25#16 then headerComplete s else s)
  | .payBuf, s => .next (if s.cnt = s.plen then (s.setCnt 0#16).setPhase .cks else s)
  | .rxCrc, s => if s.cnt = 4#16 then frameCheck s else .next s

theorem BufName.afterStore_of_lt {n : BufName} {s : State} (h : s.cnt.toNat < (s.goal n).toNat) :
    n.afterStore s = .next s := by
  have hne : s.cnt ≠ s.goal n := fun he => Nat.ne_of_lt h (congrArg BitVec.toNat he)
  cases n with
  | rxCrc => exact if_neg hne
  | _ => exact congrArg Host.Outcome.next (if_neg hne)

/-- One received byte, in the phase that collects the buffer. -/
theorem step_collecting {n : BufName} {s : State} (hp : s.phase = n.phase) (hc : s.cnt.toNat < n.cap) (b : Byte)
    (rest : List Byte) : step (s.receiving (b :: rest)) = n.afterStore ((s.stored n b).receiving rest) := by
  have hexec : exec (rxByteInstr n.phase b) (s.receiving rest) =
      andThen (storeByte n b (s.receiving rest)) n.afterStore := by cases n <;> rfl
  have hstored : (s.receiving rest).stored n b = (s.stored n b).receiving rest := by cases n <;> rfl
  rw [step_receiving, hp, hexec, andThen_storeByte (s := s.receiving rest) hc, hstored]

theorem runSteps_one (s : State) : runSteps 1 s = step s := by
  rw [runSteps]
  cases step s <;> rfl

/-- As many bytes as are missing, or fewer: all are stored, and only the last of the buffer ends the phase. -/
theorem runSteps_collecting {n : BufName} {s : State} {bs : List Byte} (hp : s.phase = n.phase)
    (hlt : s.cnt.toNat < (s.goal n).toNat) (hle : s.cnt.toNat + bs.length ≤ (s.goal n).toNat) (rest : List Byte) :
    runSteps bs.length (s.receiving (bs ++ rest)) = n.afterStore ((s.storedAll n bs).receiving rest) := by
  induction bs generalizing s with
  | nil =>
    rw [State.storedAll_nil]
    exact (BufName.afterStore_of_lt (s := s.receiving rest) hlt).symm
  | cons b bs ih =>
    have hc : s.cnt.toNat < n.cap := Nat.lt_of_lt_of_le hlt (s.goal_le_cap n)
    have hstep := step_collecting hp hc b (bs ++ rest)
    rw [State.storedAll_cons hc, List.length_cons, List.cons_append]
    obtain rfl | hbs := eq_or_ne bs []
    · rw [State.storedAll_nil, List.length_nil, runSteps_one, hstep, List.nil_append]
    · have hpos := List.length_pos_iff.mpr hbs
      have hcnt := State.stored_cnt_toNat hc b
      have hgoal := congrArg BitVec.toNat (State.stored_goal n n b s)
      rw [List.length_cons] at hle
      have hlt' : (s.stored n b).cnt.toNat < ((s.stored n b).goal n).toNat := by omega
      rw [runSteps_succ (hstep.trans (BufName.afterStore_of_lt (s := (s.stored n b).receiving _) hlt'))]
      exact ih (by rw [State.stored_phase, hp]) hlt' (by omega)

/-- The bytes of a whole buffer, from the first. -/
theorem runSteps_wholeBuffer {n : BufName} {s : State} {bs : List Byte} (hp : s.phase = n.phase) (hc : s.cnt = 0#16)
    (hne : bs ≠ []) (hlen : bs.length = (s.goal n).toNat) (rest : List Byte) :
    runSteps bs.length (s.receiving (bs ++ rest)) =
      n.afterStore (((s.setBuf n (Memory.writeAll (s.buf n) 0 bs)).setCnt (s.goal n)).receiving rest) := by
  have hpos := List.length_pos_iff.mpr hne
  have h0 : s.cnt.toNat = 0 := congrArg BitVec.toNat hc
  have hcnt : s.cnt + BitVec.ofNat 16 bs.length = s.goal n := by
    rw [hc, BitVec.zero_add, hlen, BitVec.ofNat_toNat, BitVec.setWidth_eq]
  rw [runSteps_collecting hp (by omega) (by omega), State.storedAll, h0, hcnt]

/-! ### The three parts of a candidate -/

/-- The length field among the 25 header bytes (R97). -/
theorem State.hdrPlen_eq_leAt (s : State) :
    s.hdrPlen = BitVec.ofNat 16 (leAt (Memory.slice s.hdrBuf 0 25) 5 2) := rfl

/-- A header, from its first byte (R83, R84). -/
theorem runSteps_header {s : State} {h : List Byte} (hp : s.phase = .hdr) (hc : s.cnt = 0#16) (hh : h.length = 25)
    (rest : List Byte) :
    runSteps h.length (s.receiving (h ++ rest)) =
      .next ((headerComplete (s.setBuf .hdrBuf (Memory.writeAll s.hdrBuf 0 h))).receiving rest) :=
  runSteps_wholeBuffer (n := .hdrBuf) hp hc (List.ne_nil_of_length_eq_add_one hh) hh rest

/-- The state with the payload collected and the checksum to come. -/
def State.payloadReceived (pay : List Byte) (s : State) : State :=
  (((s.setBuf .payBuf (Memory.writeAll s.payBuf 0 pay)).setPlen s.hdrPlen).setCnt 0#16).setPhase .cks

/-- A payload of the header's length, from its first byte (R84, R85); with length 0 there is nothing to collect. -/
theorem runSteps_payload {s : State} {pay : List Byte} (hlen : pay.length = s.hdrPlen.toNat) (rest : List Byte) :
    runSteps pay.length ((headerComplete s).receiving (pay ++ rest)) =
      .next ((s.payloadReceived pay).receiving rest) := by
  obtain rfl | hpay := eq_or_ne pay []
  · have h0 : s.hdrPlen = 0#16 := BitVec.eq_of_toNat_eq hlen.symm
    rw [headerComplete, if_pos h0]
    rfl
  · have h0 : s.hdrPlen ≠ 0#16 := fun h => hpay (List.length_eq_zero_iff.mp (hlen.trans (congrArg BitVec.toNat h)))
    have hrun := runSteps_wholeBuffer (n := .payBuf) (s := ((s.setPlen s.hdrPlen).setCnt 0#16).setPhase .pay)
      rfl rfl hpay hlen rest
    rw [headerComplete, if_neg h0, hrun]
    exact congrArg Host.Outcome.next (if_pos rfl)

/-- A checksum, from its first byte (R86, R87). -/
theorem runSteps_checksum {s : State} {sum : List Byte} (hp : s.phase = .cks) (hc : s.cnt = 0#16)
    (hs : sum.length = 4) (rest : List Byte) :
    runSteps sum.length (s.receiving (sum ++ rest)) =
      frameCheck (((s.setBuf .rxCrc (Memory.writeAll s.rxCrc 0 sum)).setCnt 4#16).receiving rest) :=
  runSteps_wholeBuffer (n := .rxCrc) hp hc (List.ne_nil_of_length_eq_add_one hs) hs rest

/-! ### A whole candidate -/

/-- The state whose buffers hold a candidate's three parts, as the frame check meets it. -/
def State.candidateReceived (h pay sum : List Byte) (s : State) : State :=
  { s with
    phase := .cks
    cnt := 4#16
    plen := BitVec.ofNat 16 pay.length
    hdrBuf := Memory.writeAll s.hdrBuf 0 h
    payBuf := Memory.writeAll s.payBuf 0 pay
    rxCrc := Memory.writeAll s.rxCrc 0 sum }

theorem payload_length_lt {h pay : List Byte} (hh : h.length = 25) (hpay : leAt h 5 2 = pay.length) :
    pay.length < 2 ^ 16 :=
  hpay ▸ leNat_lt (n := 2) (by simp [hh])

/-- A candidate whose payload has the length its header states ends in the frame check. -/
theorem runSteps_candidate {s : State} {h pay sum : List Byte} (hi : s.Inv) (hp : s.phase = .hdr) (hc : s.cnt = 0#16)
    (hh : h.length = 25) (hpay : leAt h 5 2 = pay.length) (hs : sum.length = 4) (rest : List Byte) :
    runSteps (h ++ pay ++ sum).length (s.receiving (h ++ pay ++ sum ++ rest)) =
      frameCheck ((s.candidateReceived h pay sum).receiving rest) := by
  have hslice : Memory.slice (Memory.writeAll s.hdrBuf 0 h) 0 25 = h := by
    rw [← hh]
    exact Memory.slice_writeAll hi.hdrWf (by omega)
  have hplen : (s.setBuf .hdrBuf (Memory.writeAll s.hdrBuf 0 h)).hdrPlen = BitVec.ofNat 16 pay.length := by
    rw [State.hdrPlen_eq_leAt, State.setBuf_hdrBuf_hdrBuf, hslice, hpay]
  simp only [List.length_append, List.append_assoc]
  rw [runSteps_add (runSteps_header hp hc hh _), runSteps_add (runSteps_payload ?_ _),
    runSteps_checksum rfl rfl hs]
  · rw [State.payloadReceived, hplen]
    rfl
  · rw [hplen, BitVec.toNat_ofNat, Nat.mod_eq_of_lt (payload_length_lt hh hpay)]

/-- The three sync bytes, in HUNT0 (R79 to R81). -/
theorem runSteps_sync {s : State} (hp : s.phase = .hunt0) (rest : List Byte) :
    runSteps syncBytes.length (s.receiving (syncBytes ++ rest)) =
      .next (((s.setPhase .hdr).setCnt 0#16).receiving rest) := by
  have hfirst : step (s.receiving (syncBytes ++ rest)) =
      .next ((s.setPhase .hunt1).receiving ([0x44#8, 0x12#8] ++ rest)) := by
    rw [syncBytes, List.cons_append, step_receiving, hp]
    rfl
  exact (runSteps_succ hfirst 2).trans rfl

/-- A candidate that ends in the CRC of its other bytes passes the frame check (R87, R93). -/
theorem frameCheck_candidateReceived {s : State} {h pay : List Byte} (hi : s.Inv) (hh : h.length = 25)
    (hpay : pay.length < 2 ^ 16) {v : U32} (hv : crc s.params (syncBytes ++ h ++ pay) = v) (rest : List Byte) :
    frameCheck ((s.candidateReceived h pay (leBytes 4 v.toNat)).receiving rest) =
      .next ((s.candidateReceived h pay (leBytes 4 v.toNat)).receiving rest).accepted := by
  have hlen : (BitVec.ofNat 16 pay.length).toNat = pay.length := Nat.mod_eq_of_lt hpay
  have hhdr := Memory.slice_writeAll (bs := h) (o := 0) hi.hdrWf (by omega)
  have hpl := Memory.slice_writeAll (bs := pay) (o := 0) hi.payWf (by omega)
  have hsum := Memory.slice_writeAll (bs := leBytes 4 v.toNat) (o := 0) hi.crcWf (Nat.le_refl _)
  rw [hh] at hhdr
  have hcomputed : (s.candidateReceived h pay (leBytes 4 v.toNat)).computedCrc = v := by
    simp only [State.computedCrc, State.frameBytes, State.candidateReceived, hlen, hhdr, hpl, hv]
  have hreceived : (s.candidateReceived h pay (leBytes 4 v.toNat)).receivedCrc = v :=
    (congrArg (fun bs => BitVec.ofNat 32 (leNat bs)) hsum).trans (ofNat_leNat_leBytes 4 v)
  rw [frameCheck_eq]
  exact congrArg _ (if_pos (hcomputed.trans hreceived.symm))

/-- Sync, header, a payload of the stated length and the CRC of all three, received in HUNT0, are accepted with the last
byte. -/
theorem runSteps_validFrame {s : State} {h pay : List Byte} (hi : s.Inv) (hp : s.phase = .hunt0)
    (hh : h.length = 25) (hpay : leAt h 5 2 = pay.length) {v : U32}
    (hv : crc s.params (syncBytes ++ h ++ pay) = v) (rest : List Byte) :
    runSteps (syncBytes ++ h ++ pay ++ leBytes 4 v.toNat).length
        (s.receiving (syncBytes ++ h ++ pay ++ leBytes 4 v.toNat ++ rest)) =
      .next ((s.candidateReceived h pay (leBytes 4 v.toNat)).receiving rest).accepted := by
  have hhdr : State.Inv ((s.setPhase .hdr).setCnt 0#16) :=
    .of_cnt_zero (fun n => by simpa using hi.bufWf n) rfl nofun nofun
  have hcand := runSteps_candidate hhdr rfl rfl hh hpay (rfl : (leBytes 4 v.toNat).length = 4) rest
  have hsplit : syncBytes ++ h ++ pay ++ leBytes 4 v.toNat = syncBytes ++ (h ++ pay ++ leBytes 4 v.toNat) := by
    simp only [List.append_assoc]
  rw [hsplit, List.append_assoc syncBytes, List.length_append, runSteps_add (runSteps_sync hp _), hcand]
  exact frameCheck_candidateReceived hi hh (payload_length_lt hh hpay) hv rest

end Sys2Proof.Machine

/-! ## Scope: the encoder (43_encoder.md)

A frame sent is sync, header, payload and the CRC of all three (R114), so `runSteps_validFrame` receives it (R121). -/

namespace Sys2Proof.Machine

/-! ### The fields of a header that is sent, and its round trip (R113, R120, R121) -/

theorem leAt_txHeader_id (p : Params) (id n : U16) : leAt (txHeader p id n) 1 2 = id.toNat :=
  (leNat_leBytes_mod 2 id.toNat).trans (Nat.mod_eq_of_lt id.isLt)

/-- The length field of the header a frame is sent with. -/
theorem leAt_txHeader_length (p : Params) (id : U16) {pay : List Byte} (hpay : lengthOk pay = true) :
    leAt (txHeader p id (BitVec.ofNat 16 pay.length)) 5 2 = pay.length :=
  (leAt_txHeader_plen p id _).trans (Nat.mod_eq_of_lt (Nat.lt_succ_of_le (of_decide_eq_true hpay)))

/-- What the three encoder events send is a frame, of a payload within R24's bound. -/
theorem State.eventsOf_encoder (s : State) {e : Instr} (hwf : e.wf = true)
    (he : (∃ id bs, e = .encFrame id bs) ∨ (∃ uid, e = .encStopLog uid) ∨
      (∃ lid per off, e = .encStartLog lid per off)) :
    ∃ id pay, lengthOk pay = true ∧ s.eventsOf e = [.txFrame (frame s.params id pay)] := by
  rcases he with ⟨id, bs, rfl⟩ | ⟨uid, rfl⟩ | ⟨lid, per, off, rfl⟩
  · exact ⟨id, bs, hwf, rfl⟩
  · exact ⟨stopLogId, stopLogPayload s.params uid, rfl, rfl⟩
  · exact ⟨startLogId, startLogPayload s.params lid per off, rfl, rfl⟩

/-- Settles O54: the frame sent is `frame`, and `runSteps_validFrame` receives it. -/
theorem sentFramesAreAccepted : Obligations.SentFramesAreAccepted := by
  unfold Obligations.SentFramesAreAccepted
  intro s u r e F hwf he hexec hout hi hp hparams
  obtain ⟨id, pay, hpay, hev⟩ := s.eventsOf_encoder hwf he
  obtain rfl : F = frame r.params id pay := by
    have hsent := hout.symm.trans ((exec_emits e).output hexec)
    rw [hev, ← hparams] at hsent
    simpa using hsent
  have hrun := runSteps_validFrame hi hp rfl (leAt_txHeader_length r.params id hpay) rfl []
  rw [List.append_nil] at hrun
  exact ⟨_, _, _, _, _, hrun, rfl, rfl, rfl, rfl⟩

/-! ### The bytes of a frame (R113 to R116) -/

/-- The two bytes of a word, low byte first. -/
theorem leBytes_two (v : U16) : leBytes 2 v.toNat = [v.extractLsb' 0 8, v.extractLsb' 8 8] := by
  simp [leBytes, BitVec.extractLsb', Nat.shiftRight_eq_div_pow]

theorem length_frame (p : Params) (id : U16) (pay : List Byte) : (frame p id pay).length = 32 + pay.length := by
  have hhead : (encHeader p id (BitVec.ofNat 16 pay.length)).length = 28 := rfl
  rw [frame, List.length_append, List.length_append, hhead, Laws.EncodeSize.length_leBytes]
  omega

/-- Settles O49: with the bytes of `leBytes_two`, and the length field read back by `leAt_txHeader_plen`. -/
theorem encodedHeaderHasItsBytesAndRoundTrips : Obligations.EncodedHeaderHasItsBytesAndRoundTrips := by
  unfold Obligations.EncodedHeaderHasItsBytesAndRoundTrips
  intro p id n
  refine ⟨?_, leAt_txHeader_id p id n, leAt_txHeader_plen p id n⟩
  rw [encHeader, txHeader, leBytes_two, leBytes_two]
  rfl

/-- Settles O50: the event is one `emit` of `frame`, and its operands are read back. -/
theorem encFrameEmitsTheWholeFrame : Obligations.EncFrameEmitsTheWholeFrame := by
  unfold Obligations.EncFrameEmitsTheWholeFrame
  rintro s id bs _ hlen rfl
  exact ⟨fun ph rest => decodeEvent_encFrame ph id (decide_eq_true hlen) rest, rfl, length_frame s.params id bs⟩

/-- Settles O51: the payload is `stopLogPayload`. -/
theorem stopLogSendsItsCommand : Obligations.StopLogSendsItsCommand := by
  unfold Obligations.StopLogSendsItsCommand
  rintro s uid _ rfl
  exact ⟨fun ph rest => decodeEvent_encStopLog ph uid rest,
    frame s.params stopLogId (stopLogPayload s.params uid), length_frame _ _ _, rfl, rfl, rfl⟩

/-- Settles O52: the payload is `startLogPayload`. -/
theorem startLogSendsItsCommand : Obligations.StartLogSendsItsCommand := by
  unfold Obligations.StartLogSendsItsCommand
  rintro s lid per off _ rfl
  exact ⟨fun ph rest => decodeEvent_encStartLog ph lid per off rest,
    frame s.params startLogId (startLogPayload s.params lid per off), length_frame _ _ _, rfl, rfl, rfl⟩

end Sys2Proof.Machine

/-! ## Scope: errors, the idle block, and the host contract (60_exceptions.md) -/

namespace Sys2Proof.Machine

/-! ### At most one error a step (R126), and the idle block (R142) -/

/-- The frame check emits at most one error: of an accepted frame's three events only the last can be one. -/
theorem State.checkEvents_errors_le_one (s : State) : (s.checkEvents.filter isError).length ≤ 1 := by
  unfold State.checkEvents
  split
  · exact List.length_filter_le isError [s.kindEvent s.key]
  · exact Nat.le_refl 1

/-- Outside the frame check an instruction emits at most one event at all. -/
theorem State.eventsOf_errors_le_one (s : State) (i : Instr) : ((s.eventsOf i).filter isError).length ≤ 1 := by
  cases i with
  | rxByteCks b =>
    simp only [State.eventsOf]
    split
    · exact State.checkEvents_errors_le_one _
    · exact Nat.zero_le 1
  | rxByteHunt0 | rxByteHunt1 | rxByteHunt2 | rxByteHdr | rxBytePay | rxTimeoutHunt | reset => exact Nat.zero_le 1
  | _ => exact List.length_filter_le isError [_]

/-- Settles O27: an idle step emits nothing, and any other the events of what it fetched. -/
theorem noStepEmitsTwoErrors : Obligations.NoStepEmitsTwoErrors := by
  unfold Obligations.NoStepEmitsTwoErrors
  intro s t h
  rcases step_cases h with ⟨-, rfl⟩ | ⟨i, rest, -, hx⟩
  · exact ⟨[], (List.append_nil _).symm, Nat.zero_le 1⟩
  · exact ⟨(s.setInput rest).eventsOf i, (exec_emits i).output (s := s.setInput rest) hx,
      State.eventsOf_errors_le_one _ i⟩

/-- Settles O21. -/
theorem idleBlockKeepsItsState : Obligations.IdleBlockKeepsItsState := by
  unfold Obligations.IdleBlockKeepsItsState
  exact fun s h => step_of_noEvent (decodeEvent_noEvent_iff.mpr h)

/-! ### What the host does with an event (R133, R139, R140) -/

/-- Logging changes the log only. -/
theorem Driver.logEvent_eq (e : OutEvent) (d : Driver) : ∃ lines, d.logEvent e = { d with log := lines } := by
  unfold Driver.logEvent
  split
  · exact ⟨_, rfl⟩
  · exact ⟨d.log, rfl⟩

/-- FRAME_OK and TX_FRAME apart, the host answers an event in its sink and its log only. -/
theorem Driver.react_eq {e : OutEvent} (hok : e ≠ .frameOk) (htx : ∀ bs, e ≠ .txFrame bs) (d : Driver) :
    ∃ calls lines, d.react e = { d with sink := calls, log := lines } := by
  have hlog := Driver.logEvent_eq e d
  cases e with
  | frameOk => exact absurd rfl hok
  | txFrame bs => exact absurd rfl (htx bs)
  | gpsTime | navSample | crcResult => exact ⟨_, _, rfl⟩
  | ack | unexpectedId | shortRead | checksumMismatch => exact ⟨d.sink, hlog⟩

/-- Settles O56: a write is a call, and `react_eq` has the other events. -/
theorem onlyFrameOkHoldsTheWatchdogOff : Obligations.OnlyFrameOkHoldsTheWatchdogOff := by
  unfold Obligations.OnlyFrameOkHoldsTheWatchdogOff
  refine fun d e => ⟨rfl, rfl, fun hok => ?_⟩
  by_cases htx : ∃ bs, e = .txFrame bs
  · obtain ⟨bs, rfl⟩ := htx
    exact ⟨rfl, rfl⟩
  · obtain ⟨_, _, h⟩ := Driver.react_eq hok (not_exists.mp htx) d
    rw [h]
    exact ⟨rfl, rfl⟩

/-- Settles O58: the call is `writeTransport`'s, and `react_eq` has the events other than TX_FRAME and FRAME_OK. -/
theorem hostWritesEachFrameWithOneCall : Obligations.HostWritesEachFrameWithOneCall := by
  unfold Obligations.HostWritesEachFrameWithOneCall
  intro d e
  constructor
  · rintro bs rfl
    exact ⟨d.writeAnswer, rfl, fun h => Driver.answer_none h _⟩
  · intro htx
    rcases eq_or_ne e .frameOk with rfl | hok
    · rfl
    · obtain ⟨_, _, h⟩ := Driver.react_eq hok htx d
      rw [h]

/-! ### Reading (R24, R133, R137) -/

/-- The bytes of a read, then one RX_TIMEOUT if it came back short (R24). -/
theorem assemble_readScript (p : Params) (asked : Nat) (got : List Byte) :
    assemble p (readScript asked got) = rxScript got ++ if got.length < asked then [0x01#8] else [] := by
  unfold readScript
  split
  · rfl
  · rfl

/-- A turn of a running loop waits and reads before all else. -/
theorem System.read_prefix_turn {y : System} (hrun : y.driver.running = true) (asked minBytes waited : Nat)
    (got : List Byte) (terminate : Bool) :
    (y.acts [.wait (min waited y.driver.par.tByte), .readTransport asked minBytes got]).driver.calls <+:
      (y.turn asked minBytes got waited terminate).driver.calls := by
  rw [System.turn, if_pos hrun]
  refine (System.acts_calls_prefix ((readScript asked (y.driver.readAnswer asked got)).map .give) _).trans ?_
  cases terminate with
  | true => exact System.acts_calls_prefix _ _
  | false => exact System.acts_calls_prefix _ _

/-- Settles O59: the first call of a turn is the read's, and no act of the host forgets a call. -/
theorem readsBecomeReceiveEvents : Obligations.ReadsBecomeReceiveEvents := by
  unfold Obligations.ReadsBecomeReceiveEvents
  refine ⟨fun p asked got _ => assemble_readScript p asked got, ?_⟩
  intro y asked minBytes waited got terminate h hrun hhandle
  have hread := System.read_prefix_turn hrun asked minBytes waited got terminate
  rw [← hhandle, ← Driver.readAnswer_some hhandle]
  exact hread

/-! ### A command given to an idle block (R95, R133) -/

theorem runBlock_of_no_input {s : State} (h : s.input = []) (k : Nat) : runBlock k s = s := by
  cases k with
  | zero => rfl
  | succ k => rw [runBlock, h]

/-- A block whose next step takes all of its input is idle after it. -/
theorem runBlock_of_step {s u : State} (hstep : step s = .next u) (hu : u.input = []) :
    runBlock s.input.length s = u := by
  cases h : s.input with
  | nil => exact Host.Outcome.next.inj ((idleBlockKeepsItsState s h).symm.trans hstep)
  | cons b bs =>
    rw [List.length_cons, runBlock, h, hstep]
    exact runBlock_of_no_input hu _

/-- A script line that is one event of the phase, given to an idle block, runs that event. -/
theorem System.give_event {y : System} {l : ScriptLine} {i : Instr} {u : State} (hidle : y.block.input = [])
    (hl : l.bytes y.block.params = encode y.block.params i) (hwf : i.wf = true) (hf : i.format = .portOp)
    (hp : i.inPhase y.block.phase = true) (hx : exec i y.block = .next u) :
    y.give l = ⟨u, (u.output.drop y.block.output.length).foldl Driver.react y.driver⟩ := by
  have hself : y.block.setInput [] = y.block := by rw [← hidle]; rfl
  have hstep : step (y.block.setInput (encode y.block.params i)) = .next u :=
    calc step (y.block.setInput (encode y.block.params i))
      _ = exec i (y.block.setInput []) := stepRunsTheDecodedEvent _ i [] hwf hf hp (List.append_nil _).symm
      _ = .next u := by rw [hself, hx]
  have hrun := runBlock_of_step hstep ((exec_keeps_ports hx).2.trans hidle)
  simp only [System.give, hidle, hl, List.nil_append]
  rw [show runBlock (encode y.block.params i).length _ = u from hrun]

/-- The block has sent this frame, and the host has written it. -/
def System.sent (id : U16) (pay : List Byte) (y : System) : System :=
  ⟨sendFrame id pay y.block, y.driver.writeTransport (frame y.block.params id pay)⟩

theorem System.sent_written (id : U16) (pay : List Byte) (y : System) :
    (y.sent id pay).driver.written = y.driver.written ++ [frame y.block.params id pay] :=
  Driver.writeTransport_written _ _

/-- An event that sends one frame, given to an idle block in any phase: the host writes the frame. -/
theorem System.give_sending {y : System} {l : ScriptLine} {i : Instr} {id : U16} {pay : List Byte}
    (hidle : y.block.input = []) (hl : l.bytes y.block.params = encode y.block.params i) (hwf : i.wf = true)
    (hf : i.format = .portOp) (hp : i.inPhase y.block.phase = true)
    (hx : exec i y.block = .next (sendFrame id pay y.block)) : y.give l = y.sent id pay := by
  rw [System.give_event hidle hl hwf hf hp hx, sendFrame, State.emit_output, List.drop_left]
  rfl

/-- STOP is the event ENC_STOP_LOG (R65), which every phase takes. -/
theorem System.give_stop {y : System} (hidle : y.block.input = []) (uid : U16) :
    y.give (.stop uid) = y.sent stopLogId (stopLogPayload y.block.params uid) :=
  System.give_sending (i := .encStopLog uid) hidle rfl rfl rfl rfl rfl

/-- START is the event ENC_START_LOG (R65), which every phase takes. -/
theorem System.give_start {y : System} (hidle : y.block.input = []) (lid : U16) (per off : U32) :
    y.give (.start lid per off) = y.sent startLogId (startLogPayload y.block.params lid per off) :=
  System.give_sending (i := .encStartLog lid per off) hidle rfl rfl rfl rfl rfl

/-- What a restart (R66) does to an idle block and its host. -/
theorem System.acts_restart {y : System} (hidle : y.block.input = []) (par : HostParams) (uid lid : U16)
    (per off : U32) :
    y.acts (restartActs par uid lid per off) =
      ((y.sent stopLogId (stopLogPayload y.block.params uid)).act (.wait par.tGap)).sent startLogId
        (startLogPayload y.block.params lid per off) := by
  have hstart := System.give_start (y := (y.sent stopLogId (stopLogPayload y.block.params uid)).act (.wait par.tGap))
    hidle lid per off
  calc y.acts (restartActs par uid lid per off)
    _ = ((y.give (.stop uid)).act (.wait par.tGap)).give (.start lid per off) := rfl
    _ = _ := by rw [System.give_stop hidle]; exact hstart

/-- A restart writes the two commands' frames, the stop-logging command first. -/
theorem System.acts_restart_written {y : System} (hidle : y.block.input = []) (par : HostParams) (uid lid : U16)
    (per off : U32) :
    (y.acts (restartActs par uid lid per off)).driver.written = y.driver.written ++
      [frame y.block.params stopLogId (stopLogPayload y.block.params uid),
       frame y.block.params startLogId (startLogPayload y.block.params lid per off)] := by
  rw [System.acts_restart hidle, System.sent_written]
  change (y.sent stopLogId (stopLogPayload y.block.params uid)).driver.written ++ _ = _
  rw [System.sent_written, List.append_assoc]
  rfl

/-- What a stale link makes the host do: a restart between the warning and the clock's reset. -/
theorem System.acts_watchdog {y : System} (hstale : y.driver.stale = true) :
    y.acts (watchdogActs y.driver) =
      ((y.act .logStale).acts (restartActs y.driver.par y.driver.telemetryId y.driver.telemetryId y.driver.period
        y.driver.offset)).act .resetStale := by
  rw [watchdogActs, if_pos hstale]
  rfl

/-- Settles O57: between warning and clock reset the restart sends two frames, and sending keeps the receive state. -/
theorem watchdogRestartKeepsTheSyncState : Obligations.WatchdogRestartKeepsTheSyncState := by
  unfold Obligations.WatchdogRestartKeepsTheSyncState
  intro y hidle hstale
  have hwritten := System.acts_restart_written (y := y.act .logStale) hidle y.driver.par y.driver.telemetryId
    y.driver.telemetryId y.driver.period y.driver.offset
  rw [System.acts_watchdog hstale]
  rw [System.acts_restart (y := y.act .logStale) hidle] at hwritten ⊢
  exact ⟨rfl, rfl, rfl, hwritten⟩

end Sys2Proof.Machine

/-! ## Scope: reset and hazards (70_reset_and_hazards.md)

Bytes that hold a whole candidate (R150) are its header, a payload of the stated length, its checksum and what follows.
`runSteps_candidate` says where the candidate ends; it ends no earlier because a buffer that is not yet full keeps its
phase. -/

namespace Sys2Proof.Machine

/-! ### A candidate among the bytes received (R150) -/

/-- The length field lies in the header, whatever follows it. -/
theorem leAt_take_header (bs : List Byte) : leAt (bs.take 25) 5 2 = leAt bs 5 2 := by
  rw [leAt, leAt, List.drop_take, List.take_take]
  rfl

/-- Enough bytes hold a header, a payload of the length it states, and a checksum. -/
theorem exists_candidate_of_length {bs : List Byte} (hlen : 29 + leAt bs 5 2 ≤ bs.length) :
    ∃ h pay sum rest, bs = h ++ (pay ++ (sum ++ rest)) ∧ h.length = 25 ∧ leAt h 5 2 = leAt bs 5 2 ∧
      pay.length = leAt bs 5 2 ∧ sum.length = 4 := by
  refine ⟨bs.take 25, (bs.drop 25).take (leAt bs 5 2), ((bs.drop 25).drop (leAt bs 5 2)).take 4,
    ((bs.drop 25).drop (leAt bs 5 2)).drop 4, by simp only [List.take_append_drop], ?_, leAt_take_header bs, ?_, ?_⟩ <;>
  · simp only [List.length_take, List.length_drop]
    omega

/-- The header collected from its first byte states the payload length its bytes state (R97). -/
theorem State.hdrPlen_headerReceived {s : State} {h : List Byte} (hi : s.Inv) (hh : h.length = 25) :
    (s.setBuf .hdrBuf (Memory.writeAll s.hdrBuf 0 h)).hdrPlen.toNat = leAt h 5 2 := by
  have hslice : Memory.slice (Memory.writeAll s.hdrBuf 0 h) 0 25 = h := by
    rw [← hh]
    exact Memory.slice_writeAll hi.hdrWf (by omega)
  rw [State.hdrPlen_eq_leAt, State.setBuf_hdrBuf_hdrBuf, hslice, BitVec.toNat_ofNat]
  exact Nat.mod_eq_of_lt (leNat_lt (n := 2) (by simp [hh]))

/-! ### A candidate does not end early -/

theorem State.storedAll_phase (n : BufName) (bs : List Byte) (s : State) : (s.storedAll n bs).phase = s.phase := by
  cases n <;> rfl

theorem State.storedAll_goal (n k : BufName) (bs : List Byte) (s : State) :
    (s.storedAll n bs).goal k = s.goal k := by
  cases n <;> cases k <;> rfl

/-- Fewer bytes than the buffer is to hold keep its phase. -/
theorem runSteps_partialBuffer {n : BufName} {s : State} {bs : List Byte} {k : Nat} (hp : s.phase = n.phase)
    (hc : s.cnt = 0#16) (hk : k < (s.goal n).toNat) (hbs : k ≤ bs.length) :
    ∃ t, runSteps k (s.receiving bs) = .next t ∧ t.phase = n.phase := by
  have h0 : s.cnt.toNat = 0 := congrArg BitVec.toNat hc
  have hlen : (bs.take k).length = k := List.length_take_of_le hbs
  have hgoal := State.storedAll_goal n n (bs.take k) s
  have hcnt : (s.storedAll n (bs.take k)).cnt.toNat = k := by
    have hmax := (s.goal n).isLt
    rw [State.storedAll, State.setCnt_cnt, hc, hlen, BitVec.zero_add, BitVec.toNat_ofNat, Nat.mod_eq_of_lt (by omega)]
  have hrun := runSteps_collecting hp (bs := bs.take k) (by omega) (by omega) (bs.drop k)
  have hlt : (s.storedAll n (bs.take k)).cnt.toNat < ((s.storedAll n (bs.take k)).goal n).toNat := by
    rw [hcnt, hgoal]
    exact hk
  rw [hlen, List.take_append_drop, BufName.afterStore_of_lt (s := (s.storedAll n _).receiving _) hlt] at hrun
  exact ⟨_, hrun, (s.storedAll_phase n _).trans hp⟩

/-- With fewer bytes than the payload and checksum to come, the candidate is still in PAY or CKS (R84 to R86). -/
theorem runSteps_partialBody {s : State} {pay sum : List Byte} {j : Nat} (hpay : pay.length = s.hdrPlen.toNat)
    (hsum : sum.length = 4) (hj : j < pay.length + 4) (rest : List Byte) :
    ∃ (n : BufName) (t : State), runSteps j ((headerComplete s).receiving (pay ++ (sum ++ rest))) = .next t ∧
      t.phase = n.phase := by
  obtain hlt | ⟨i, rfl⟩ := (Nat.lt_or_ge j pay.length).imp_right Nat.exists_eq_add_of_le
  · have hne : s.hdrPlen ≠ 0#16 := fun h0 => by
      rw [hpay, h0] at hlt
      exact Nat.not_lt_zero j hlt
    rw [headerComplete, if_neg hne]
    exact ⟨.payBuf, runSteps_partialBuffer rfl rfl (Nat.lt_of_lt_of_eq hlt hpay) (by rw [List.length_append]; omega)⟩
  · rw [runSteps_add (runSteps_payload hpay _)]
    exact ⟨.rxCrc, runSteps_partialBuffer rfl rfl (Nat.lt_of_add_lt_add_left hj) (by rw [List.length_append]; omega)⟩

/-- With fewer bytes than its whole length, the candidate is still being collected (R83 to R86). -/
theorem runSteps_partialCandidate {s : State} {h pay sum : List Byte} {k : Nat} (hi : s.Inv) (hp : s.phase = .hdr)
    (hc : s.cnt = 0#16) (hh : h.length = 25) (hpay : leAt h 5 2 = pay.length) (hsum : sum.length = 4)
    (hk : k < 29 + pay.length) (rest : List Byte) :
    ∃ (n : BufName) (t : State), runSteps k (s.receiving (h ++ (pay ++ (sum ++ rest)))) = .next t ∧
      t.phase = n.phase := by
  obtain hlt | ⟨j, rfl⟩ := (Nat.lt_or_ge k h.length).imp_right Nat.exists_eq_add_of_le
  · exact ⟨.hdrBuf, runSteps_partialBuffer hp hc (Nat.lt_of_lt_of_eq hlt hh) (by rw [List.length_append]; omega)⟩
  · have hplen := (State.hdrPlen_headerReceived hi hh).trans hpay
    rw [runSteps_add (runSteps_header hp hc hh _)]
    exact runSteps_partialBody hplen.symm hsum (by omega) rest

/-- The phases of the three buffers are the collecting ones. -/
theorem BufName.phase_collects (n : BufName) : n.phase = .hdr ∨ n.phase = .pay ∨ n.phase = .cks := by
  cases n with
  | hdrBuf => exact .inl rfl
  | payBuf => exact .inr (.inl rfl)
  | rxCrc => exact .inr (.inr rfl)

/-! ### It ends with its last byte, and hunts -/

/-- Accepted or rejected, the frame check ends in HUNT0 and takes nothing from the port (R88, R89). -/
theorem frameCheck_hunts (s : State) :
    ∃ t, frameCheck s = .next t ∧ t.phase = .hunt0 ∧ t.cnt = 0#16 ∧ t.input = s.input := by
  rw [frameCheck_eq]
  split
  · exact ⟨s.accepted, rfl, rfl, rfl, rfl⟩
  · exact ⟨rejectFrame s, rfl, rfl, rfl, rfl⟩

/-- Settles O41: split into its parts, the candidate ends in the frame check (`runSteps_candidate`), and no earlier
(`runSteps_partialCandidate`). -/
theorem candidateEndsAfterItsStatedLength : Obligations.CandidateEndsAfterItsStatedLength := by
  unfold Obligations.CandidateEndsAfterItsStatedLength
  intro s bs hi hp hc hlen
  obtain ⟨h, pay, sum, rest, hbs, hh, hfield, hpay, hsum⟩ := exists_candidate_of_length hlen
  rw [← hpay] at hfield ⊢
  have htotal : (h ++ pay ++ sum).length = 29 + pay.length := by
    simp only [List.length_append, hh, hsum]
    omega
  have hsplit : bs = h ++ pay ++ sum ++ rest := by rw [hbs, List.append_assoc, List.append_assoc]
  refine ⟨Nat.le_of_lt_succ (payload_length_lt hh hfield), ?_, fun k hk => ?_⟩
  · rw [← htotal, hsplit, runSteps_candidate hi hp hc hh hfield hsum, List.drop_left]
    exact frameCheck_hunts _
  · obtain ⟨n, t, hrun, hphase⟩ := runSteps_partialCandidate hi hp hc hh hfield hsum hk rest
    exact ⟨t, hbs ▸ hrun, hphase ▸ n.phase_collects⟩

/-! ### Reset and the sync sequence -/

/-- Settles O2: RESET's op byte decodes in every phase, and its meaning writes `phase`, `cnt` and `plen` only. -/
theorem resetEventResetsTheParser : Obligations.ResetEventResetsTheParser := by
  unfold Obligations.ResetEventResetsTheParser
  exact fun s => ⟨fun _ _ => rfl, s.hunt.setPlen 0#16, rfl, rfl, rfl, rfl, rfl, rfl, rfl, rfl⟩

/-- R79: in HUNT0, bytes other than 0xAA change nothing but the port. -/
theorem runSteps_skipped_bytes {s : State} {bs : List Byte} (hp : s.phase = .hunt0) (hbs : 0xAA#8 ∉ bs)
    (rest : List Byte) : runSteps bs.length (s.receiving (bs ++ rest)) = .next (s.receiving rest) := by
  induction bs with
  | nil => rfl
  | cons b bs ih =>
    obtain ⟨hb, hbs⟩ := not_or.mp (List.mem_cons.not.mp hbs)
    have hstep : step (s.receiving (b :: (bs ++ rest))) = .next (s.receiving (bs ++ rest)) := by
      rw [step_receiving, hp]
      refine congrArg Host.Outcome.next ?_
      rw [if_neg (Ne.symm hb)]
      exact State.setPhase_self (s := s.receiving _) hp
    rw [List.length_cons, List.cons_append, runSteps_succ hstep, ih hbs]

/-- R80 and R81: after `AA 44` a second 0xAA ends the attempt, and starts no new one. -/
theorem runSteps_overlapping_first_byte {s : State} (hp : s.phase = .hunt0) (rest : List Byte) :
    runSteps 3 (s.receiving ([0xAA#8, 0x44#8, 0xAA#8] ++ rest)) = .next (s.receiving rest) := by
  have hfirst : step (s.receiving ([0xAA#8, 0x44#8, 0xAA#8] ++ rest)) =
      .next ((s.setPhase .hunt1).receiving ([0x44#8, 0xAA#8] ++ rest)) := by
    rw [List.cons_append, step_receiving, hp]
    rfl
  calc runSteps 3 (s.receiving ([0xAA#8, 0x44#8, 0xAA#8] ++ rest))
    _ = runSteps 2 ((s.setPhase .hunt1).receiving ([0x44#8, 0xAA#8] ++ rest)) := runSteps_succ hfirst 2
    _ = .next ((s.receiving rest).setPhase .hunt0) := rfl
    _ = .next (s.receiving rest) := by rw [State.setPhase_self (s := s.receiving rest) hp]

/-- Settles O40: the overlapping 0xAA is lost and `44 12` are skipped; a repeated 0xAA is not lost (O39). -/
theorem overlappingSyncIsLost : Obligations.OverlappingSyncIsLost := by
  unfold Obligations.OverlappingSyncIsLost
  intro s hp
  constructor
  · have hskip := runSteps_skipped_bytes (bs := [0x44#8, 0x12#8]) hp (by decide) []
    exact (runSteps_add (runSteps_overlapping_first_byte hp [0x44#8, 0x12#8]) 2).trans hskip
  · have hfirst : step (s.receiving [0xAA#8, 0xAA#8, 0x44#8, 0x12#8]) =
        .next ((s.setPhase .hunt1).receiving [0xAA#8, 0x44#8, 0x12#8]) := by
      rw [step_receiving, hp]
      rfl
    exact (runSteps_succ hfirst 3).trans (repeatedFirstSyncByteKeepsTheSync (s.setPhase .hunt1) 1 rfl)

end Sys2Proof.Machine
